-- ==== Sys2Proof/Word.lean ====
section
/-! DEFINITION. The widths of data the NCUBE processor works on: bytes, halfwords, words and
longwords as bit vectors, and the sixteen register numbers. Nothing here depends on a convention
that a test could correct. -/

namespace Sys2Proof

/-- One byte of memory, and a Byte operand (40 R140). -/
abbrev Byte := BitVec 8

/-- A Halfword: 16 bits (40 R140), and what a DMA port moves at a time (20 R66). -/
abbrev Half := BitVec 16

/-- A Word: 32 bits; registers, addresses and Reals (10 R10, 20 R60, 43 R240). -/
abbrev Word := BitVec 32

/-- Sixty-four bits: a Longreal (43 R241). -/
abbrev Long := BitVec 64

/-- The number of a general register, R0 to R15 (10 R10). Addition wraps modulo 16, which is
how a Longreal in R15 has its high half in R0 (10 R11) and how Autoskip on R15 uses R0 (30 R104). -/
abbrev Reg := Fin 16

/-- A port of one direction: 0 to 9 are the cube ports, 10 is the host port (input port 31 or
output port 63) (46 R360). -/
abbrev PortIx := Fin 11

end Sys2Proof
end

