-- ==== Sys2Proof/Config.lean ====
section
/-! DEFINITION. What an implementation of the NCUBE processor fixes, and the FREE VALUES: results
the handbook leaves open after an instruction that goes on. A free value is an opaque constant, so
that nothing can be proved of it; it is applied to the draw number `State.freeCount` and to
whatever it depends on. Log 3, 8, 10 and 11. -/

namespace Sys2Proof

/-- CR bits 31..24, "set by the manufacturing process" (10 R23, 00 R5 MODEL_NUMBER). -/
opaque Config.modelNumber : BitVec 8

/-- PI bit 31, latched from the ERROR/ pin at reset: true on an I/O board (10 R24, 00 R5
IS_IO_NODE). -/
opaque Config.isIoNode : Bool

/-- The parameter INTERRUPT_PRIORITY: the rank of an interrupt number among those that are deliverable at one
boundary, the smallest first (60 R402, 00 R5). The spec leaves it open, so that it has no value here; log 11. -/
opaque Config.interruptPriority : Nat → Nat

/-- The parameter REM_STEP: none when one REMR or REML completes the remainder, some k when it develops k + 1
quotient bits (43 R259, 00 R5). The spec leaves it open, so that it has no value here; log 10. -/
opaque Config.remStep : Option Nat

/-- FREE VALUE: the bits of FR that no rule gives: RU, RS, GR, the reserved bits, the second
operand's bits of a one-source instruction, all of FR after a conversion from an integer
(93 U5; log 24). -/
opaque Config.freeFaultBits : Nat → Word

/-- FREE VALUE: the exponent field when the adjusted exponent of an overflow or underflow falls
outside 1 to 2b (93 U15; log 35). -/
opaque Config.freeExponent : Nat → BitVec 11

/-- FREE VALUE: the result byte of ADCD or SBBD on an operand with a nibble above 9 (93 U13;
log 34). -/
opaque Config.freeDecimal : Nat → Byte

/-- FREE VALUE: the carry of ADCD or SBBD on an operand with a nibble above 9 (93 U13; log 34). -/
opaque Config.freeDecimalCarry : Nat → Bool

/-- FREE VALUE: what STPR stores for a processor register number 13 to 255 (93 U12; log 20). -/
opaque Config.freeProcessorRegister : Nat → Byte → Word

/-- FREE VALUE: what a read of one register of a Longreal's odd pair gives (70 R481, 93 U7;
log 16). -/
opaque Config.staleRegister : Nat → Reg → Word

/-- FREE VALUE: what a read of a misaligned Real or Longreal gives for the byte at an address, where the datum is
read or was stored in pieces (20 R65, 70 R481; log 16). -/
opaque Config.staleByte : Nat → Nat → Byte

/-- FREE VALUE: a general register the abandoned instruction could have written (93 U3; log 21). -/
opaque Config.abandonedRegister : Nat → Reg → Word

/-- FREE VALUE: a byte of memory the abandoned instruction could have written (93 U3; log 21). -/
opaque Config.abandonedByte : Nat → Nat → Byte

/-- FREE VALUE: any other register the abandoned instruction could have written, and the pushed
PC; the second argument says which (93 U3; log 21). -/
opaque Config.abandonedWord : Nat → Nat → Word

end Sys2Proof
end

