-- ==== Sys2Proof/Syntax.lean ====
section
/-! DEFINITION. The instructions of the NCUBE processor as syntax: the operand types (30 R93), the
addressing modes (30 R98) and one constructor per mnemonic of spec/opcode_table.json (30 R94, R95).
The 105 reserved and the 11 escape opcode bytes are the constructors `res` and `esc`, which carry
their byte. -/

namespace Sys2Proof

/-- The type of an operand (30 R93, R95). `address` stands for a field whose operand is an address
(access kind a) or that must be Register Direct (access kind reg). -/
inductive OpType where
  | byte | half | word | real | long | address
  deriving DecidableEq, Repr

/-- The width of an operand's value in bits; an address field reads no value, and an Immediate there
has no bytes of its own (30 R112). -/
abbrev OpType.bits : OpType → Nat
  | .byte => 8
  | .half => 16
  | .word => 32
  | .real => 32
  | .long => 64
  | .address => 0

/-- The operand length in bytes that the autoincrement and autodecrement modes and the stack use
(30 R98); 4 for an address operand (30 R120). -/
abbrev OpType.len : OpType → Nat
  | .byte => 1
  | .half => 2
  | .word => 4
  | .real => 4
  | .long => 8
  | .address => 4

/-- Whether a literal or the datum is a floating-point number (30 R99, R117). -/
abbrev OpType.isFp : OpType → Bool
  | .real => true
  | .long => true
  | _ => false

/-- One address field: the mode specifier with its offset or immediate value (30 R98, R115).
`reserved` is a mode byte 1110xxxx, 11111110 or 11111111, which raises Operand Error (30 R114).
`truncated` is no encoding: it stands for a field whose mode byte (none) or whose further bytes
(some mode byte) lie above the last byte of memory, so that fetching them raises Address Error
(30 R123). -/
inductive Mode (t : OpType) where
  | literal (n : BitVec 6)
  | regIndirect (r : Reg)
  | autoskip (r : Reg)
  | autoinc (r : Reg)
  | autoincInd (r : Reg)
  | byteOffReg (r : Reg) (d : Byte)
  | halfOffReg (r : Reg) (d : Half)
  | wordOffReg (r : Reg) (d : Word)
  | wordOffRegInd (r : Reg) (d : Word)
  | register (r : Reg)
  | autodec (r : Reg)
  | byteOffPc (d : Byte)
  | halfOffPc (d : Half)
  | wordOffPc (d : Word)
  | wordOffPcInd (d : Word)
  | byteOffSp (d : Byte)
  | halfOffSp (d : Half)
  | wordOffSp (d : Word)
  | wordOffSpInd (d : Word)
  | byteDirect (a : Byte)
  | halfDirect (a : Half)
  | wordDirect (a : Word)
  | wordIndirect (a : Word)
  | stk
  | immediate (v : BitVec t.bits)
  | reserved (b : Byte)
  | truncated (b : Option Byte)
  deriving DecidableEq, Repr

/-- The instructions: one constructor per mnemonic of the opcode table, its address fields in their
order (30 R94, R95). -/
inductive Instr where
  -- integer arithmetic (40)
  | negb (src des : Mode .byte)
  | negh (src des : Mode .half)
  | negw (src des : Mode .word)
  | sbrb (src des : Mode .byte)
  | sbrh (src des : Mode .half)
  | sbrw (src des : Mode .word)
  | cmpb (src des : Mode .byte)
  | cmph (src des : Mode .half)
  | cmpw (src des : Mode .word)
  | addb (src des : Mode .byte)
  | addh (src des : Mode .half)
  | addw (src des : Mode .word)
  | adcb (src des : Mode .byte)
  | adch (src des : Mode .half)
  | adcw (src des : Mode .word)
  | subb (src des : Mode .byte)
  | subh (src des : Mode .half)
  | subw (src des : Mode .word)
  | sbbb (src des : Mode .byte)
  | sbbh (src des : Mode .half)
  | sbbw (src des : Mode .word)
  | mulb (src des : Mode .byte)
  | adcd (src des : Mode .byte)
  | mulh (src des : Mode .half)
  | mulw (src des : Mode .word)
  | dvrb (src des : Mode .byte)
  | sbbd (src des : Mode .byte)
  | dvrh (src des : Mode .half)
  | dvrw (src des : Mode .word)
  | remb (src des : Mode .byte)
  | remh (src des : Mode .half)
  | remw (src des : Mode .word)
  | divb (src des : Mode .byte)
  | divh (src des : Mode .half)
  | divw (src des : Mode .word)
  -- logical, shift, rotate, find first one (41)
  | sftb (src des : Mode .byte)
  | sfth (src : Mode .byte) (des : Mode .half)
  | sftw (src : Mode .byte) (des : Mode .word)
  | sfab (src des : Mode .byte)
  | sfah (src : Mode .byte) (des : Mode .half)
  | sfaw (src : Mode .byte) (des : Mode .word)
  | rotb (src des : Mode .byte)
  | roth (src : Mode .byte) (des : Mode .half)
  | rotw (src : Mode .byte) (des : Mode .word)
  | ffob (src des : Mode .byte)
  | ffoh (src : Mode .half) (des : Mode .byte)
  | ffow (src : Mode .word) (des : Mode .byte)
  | andb (src des : Mode .byte)
  | andh (src des : Mode .half)
  | andw (src des : Mode .word)
  | orb (src des : Mode .byte)
  | orh (src des : Mode .half)
  | orw (src des : Mode .word)
  | xorb (src des : Mode .byte)
  | xorh (src des : Mode .half)
  | xorw (src des : Mode .word)
  | notb (src des : Mode .byte)
  | noth (src des : Mode .half)
  | notw (src des : Mode .word)
  | bitb (src des : Mode .byte)
  | bith (src des : Mode .half)
  | bitw (src des : Mode .word)
  -- move and convert (42)
  | movb (src des : Mode .byte)
  | movh (src des : Mode .half)
  | movw (src des : Mode .word)
  | movr (src des : Mode .real)
  | cvbr (src : Mode .byte) (des : Mode .real)
  | movl (src des : Mode .long)
  | cvhr (src : Mode .half) (des : Mode .real)
  | cvlr (src : Mode .long) (des : Mode .real)
  | cvbl (src : Mode .byte) (des : Mode .long)
  | cvhl (src : Mode .half) (des : Mode .long)
  | cvwl (src : Mode .word) (des : Mode .long)
  | cvrl (src : Mode .real) (des : Mode .long)
  | cvbw (src : Mode .byte) (des : Mode .word)
  | cvhw (src : Mode .half) (des : Mode .word)
  | cvwb (src : Mode .word) (des : Mode .byte)
  | cvwh (src : Mode .word) (des : Mode .half)
  | mova (src : Mode .address) (des : Mode .word)
  -- floating point (43)
  | negr (src des : Mode .real)
  | negl (src des : Mode .long)
  | sbrr (src des : Mode .real)
  | sbrl (src des : Mode .long)
  | cmpr (src des : Mode .real)
  | cmpl (src des : Mode .long)
  | addr (src des : Mode .real)
  | addl (src des : Mode .long)
  | sqtr (src des : Mode .real)
  | sqtl (src des : Mode .long)
  | subr (src des : Mode .real)
  | subl (src des : Mode .long)
  | sgnr (src des : Mode .real)
  | sgnl (src des : Mode .long)
  | mulr (src des : Mode .real)
  | mull (src des : Mode .long)
  | dvrr (src des : Mode .real)
  | dvrl (src des : Mode .long)
  | remr (src des : Mode .real)
  | reml (src des : Mode .long)
  | divr (src des : Mode .real)
  | divl (src des : Mode .long)
  -- control transfer and REPEAT (44)
  | bg (src : Mode .address)
  | rep (src : Mode .address)
  | ble (src : Mode .address)
  | repz (src : Mode .address)
  | bgu (src : Mode .address)
  | repnz (src : Mode .address)
  | bleu (src : Mode .address)
  | bge (src : Mode .address)
  | bl (src : Mode .address)
  | bgeu (src : Mode .address)
  | blu (src : Mode .address)
  | bne (src : Mode .address)
  | be (src : Mode .address)
  | bnv (src : Mode .address)
  | bv (src : Mode .address)
  | call (src : Mode .address)
  | jmp (src : Mode .address)
  | ret
  | retp (src : Mode .word)
  -- system (45)
  | nop
  | clc
  | stc
  | cmc
  | eron
  | trap (src : Mode .byte)
  | erof
  | bkpt
  | rset
  | ldpr (src : Mode .word) (des : Mode .byte)
  | ei
  | stpr (src : Mode .byte) (des : Mode .word)
  | di
  | wait
  | reti
  | rett
  -- communication (46)
  | lcnt (src : Mode .word) (des : Mode .byte)
  | lptr (src : Mode .word) (des : Mode .byte)
  | bcnt (src des : Mode .word)
  | bptr (src des : Mode .word)
  -- reserved and escape opcode bytes (30 R96, R97)
  | res (op : Byte)
  | esc (op : Byte)
  deriving DecidableEq, Repr

end Sys2Proof
end

