-- ==== Sys2Proof/Machine/State.lean ====
section
/-! DEFINITION. The state of one node: the processor, its memory, its ports and its output links, as
plain data; the environment's choices to come; the reasons a step can stop; and the state after
hardware reset. INVENTORY.md lists every field with the rule that names it. -/

namespace Sys2Proof.Machine

/-- Memory: (address, byte) pairs with strictly rising addresses, none listed that holds 0. An
address that is not listed reads as 0 (log 5). -/
abbrev Memory := List Host.Cell

/-- An input port: address and count registers, the one-halfword latch (full when some) and the two
error notes (10 R34, R38, R39). -/
structure InPort where
  addr : Word
  count : Word
  latch : Option Half
  parityNoted : Bool
  overrunNoted : Bool
  deriving DecidableEq, Repr

/-- An output port: address and count registers, and the halfword on its link that the far end has
not yet taken (10 R34, 46 R373). -/
structure OutPort where
  addr : Word
  count : Word
  link : Option Half
  deriving DecidableEq, Repr

/-- Who stored to memory: a floating-point instruction its Real or Longreal result; the processor anything else;
another agent (70 R481; log 16). -/
inductive Storer where
  | float | other | agent
  deriving DecidableEq, Repr

/-- A store: its address, its length and who made it (log 16). -/
structure Stored where
  addr : Nat
  len : Nat
  kind : Storer
  deriving DecidableEq, Repr

/-- The outcome of one access of the processor to memory, which the environment decides (20 R70). -/
inductive Ecc where
  | clean | corrected | uncorrectable
  deriving DecidableEq, Repr

/-- A move of an agent beside the processor: a port engine, a link, the broadcast engine, the TR countdown, the
host (46 R370). -/
inductive Move where
  /-- TR ticks (60 R441). -/
  | tick
  /-- A halfword arrives at an input port, with good parity or not (46 R374). -/
  | arrive (p : PortIx) (h : Half) (badParity : Bool)
  /-- An input port stores its latch into memory (46 R374). -/
  | storeLatch (p : PortIx)
  /-- An output port fetches and sends a halfword (46 R371). -/
  | send (p : PortIx)
  /-- The broadcast engine fetches a halfword and hands it to all selected ports (46 R366). -/
  | broadcastSend
  /-- The far end takes the halfword on an output port's link (46 R373). -/
  | linkTaken (p : PortIx)
  /-- The host writes a halfword of an I/O-board node's memory (20 R73). -/
  | hostWrite (a : Word) (h : Half)
  deriving DecidableEq, Repr

/-- What happens next while the processor makes one access to memory: an agent moves, or the processor takes the
access's byte k, counted from its lowest address (20 R68, R71; log 2). -/
inductive Visit where
  | move (m : Move)
  | byte (k : Nat)
  deriving DecidableEq, Repr

/-- One choice of the environment: which agent moves next (46 R370, 20 R71; log 1). -/
inductive Event where
  /-- The processor takes its turn, with these ECC outcomes of its accesses to memory and these visits before and
  within each of them, access by access; an access for which the list has no outcome is clean (20 R70, R71; log 2, 21).
  -/
  | processor (eccs : List Ecc) (during : List (List Visit))
  /-- Another agent moves. -/
  | move (m : Move)
  /-- The reset pin is asserted and released (70 R461, R475). -/
  | resetPin
  deriving DecidableEq, Repr

/-- Why the machine stops for good.
`stuck` is raised by every step after an interrupt entry has met an Address Error (60 R407): safe,
the spec says no further instruction is executed.
`fetchOutsideShadowRom` and `exceptionInShadowRom` are raised while the shadow ROM is active and pc is
outside it, or its program raises an exception: safe, no run from reset gets there (70 R463, R464). -/
inductive Fault where
  | stuck
  | fetchOutsideShadowRom
  | exceptionInShadowRom
  deriving DecidableEq, Repr

/-- Why the model says nothing: programs and environments that spec/93 tells a model to refuse. All
are safe: nothing is claimed of them. -/
inductive Refusal where
  /-- exec's arm of an instruction without a meaning. -/
  | notModelled (mnemonic : String)
  /-- Fetch of bytes stored to with no taken control transfer since (93 U20). -/
  | staleInstructionBytes
  /-- LDPR, an NPS, RETI or RETT writes 1 to a reserved bit of PS (93 U18). -/
  | reservedPsBits
  /-- LDPR or an NPS makes PS.REP nonzero (93 U4). -/
  | repeatWithoutPrefix
  /-- LPTR, LCNT, BPTR or BCNT names a port that does not exist (93 U8). -/
  | noSuchPort
  /-- LPTR or LCNT names a port whose count is not zero (93 U9). -/
  | portBusy
  /-- BPTR or BCNT breaks a rule of broadcasting (46 R366, 93 U14). -/
  | broadcastRule
  /-- A repeated instruction uses the count register (93 U10). -/
  | repeatCountUsed
  /-- REPZ or REPNZ before an instruction of the floating-point unit (93 U11). -/
  | repeatBeforeFpUnit
  /-- A REPEAT before REP, REPZ, REPNZ, TRAP, BKPT, RETI, RETT, WAIT or LDPR to PS (93 U16). -/
  | repeatBeforeControl
  /-- The environment breaks the boot protocol (93 U19, 92 D35). -/
  | bootProtocol
  /-- The environment uses a host window that this node does not have (20 R73). -/
  | noHostWindow
  deriving DecidableEq, Repr

/-- The state of the machine. -/
structure State where
  /-- R0 to R15 (10 R10). -/
  regs : Vector Word 16
  /-- The program counter (10 R12); an offset into the shadow ROM while that is active (log 6). -/
  pc : Word
  /-- P0 SP (10 R21). -/
  sp : Word
  /-- P1 PS (10 R14). -/
  ps : Word
  /-- P2 FR (10 R22). -/
  fr : Word
  /-- P3 CR (10 R23). -/
  cr : Word
  /-- P4 PI (10 R24). -/
  pi : Word
  /-- P5 TR (10 R25). -/
  tr : Word
  /-- P8 OE (10 R29). -/
  oe : Word
  /-- P9 IE (10 R30). -/
  ie : Word
  /-- P11 PE (10 R32). -/
  pe : Word
  /-- P12 IO (10 R33). -/
  io : Word
  /-- The input ports 0 to 9 and 31 (10 R34, R38, R39). -/
  inPorts : Vector InPort 11
  /-- The output ports 32 to 41 and 63 (10 R34). -/
  outPorts : Vector OutPort 11
  /-- The broadcast in progress: its mask of output ports (10 R43). -/
  broadcast : Option Word
  /-- Memory (10 R35). -/
  mem : Memory
  /-- Model: the input port that the loader of an array-board node has sent to since reset, while the shadow ROM is
  active (70 R485; log 27). -/
  bootPort : Option PortIx
  /-- The ERROR flag (10 R36). -/
  errorFlag : Bool
  /-- The shadow ROM is active (10 R37). -/
  romActive : Bool
  /-- RETT's inhibit of interrupts for one instruction (10 R41). -/
  inhibit : Bool
  /-- An Uncorrectable ECC interrupt has been entered and not yet handled (10 R42). -/
  ueMarker : Bool
  /-- An uncorrectable ECC error has been noted and interrupt 15 is not entered yet (60 R402 step 4, R419). -/
  uePending : Bool
  /-- A Corrected ECC interrupt is pending (10 R40, 60 R424). -/
  cePending : Bool
  /-- The processor idles in WAIT (45 R344). -/
  waiting : Bool
  /-- An interrupt entry has met an Address Error (60 R407). -/
  stuck : Bool
  /-- Model: an instruction has completed since the machine was started, so that Trace applies at the
  boundary (60 R409; log 32). -/
  traceDue : Bool
  /-- Model: (address, length) of the stores since the last taken control transfer (log 15). -/
  dirty : List (Nat × Nat)
  /-- Model: the registers that hold half of a Longreal in an odd pair (log 16). -/
  pairHazard : List Reg
  /-- Model: the registers of such a pair that have been written alone since (log 16). -/
  pieceHazard : List Reg
  /-- Model: the stores to memory that no single later one has covered, the latest first (log 16). -/
  written : List Stored
  /-- Model: the draw number of the next free values (log 3). -/
  freeCount : Nat
  /-- Model: the visits of the memory accesses that this turn of the processor has still to make, the next access
  first (log 2). -/
  during : List (List Visit)
  /-- Model: the address of the instruction byte to be fetched next, kept while there are visits to come (log 2). -/
  nextByte : Nat
  /-- Model: the environment's choices to come, the next one first (log 1). -/
  schedule : List Event
  deriving DecidableEq, Repr

/-- An idle input port (10 R50). -/
def InPort.idle : InPort :=
  { addr := 0, count := 0, latch := none, parityNoted := false, overrunNoted := false }

/-- An idle output port (10 R50). -/
def OutPort.idle : OutPort :=
  { addr := 0, count := 0, link := none }

/-- Memory after hardware reset: bytes 4 and 5 hold AA, bytes 0 to 3, 6 and 7 hold 0 (10 R50,
70 R462); what is not listed reads as 0 (log 5). -/
def Memory.afterReset : Memory :=
  [(4, 0xAA#8), (5, 0xAA#8)]

/-- The machine right after hardware reset, for an array-board node (io = false) or an I/O-board
node (io = true): the table of 10 R50. -/
def State.resetNode (io : Bool) : State :=
  { regs := Vector.replicate 16 0
    pc := 0
    sp := 0x8000
    ps := 0
    fr := 0
    cr := Config.modelNumber ++ 0#24
    pi := if io then 0x80000000 else 0
    tr := 0
    oe := 0
    ie := 0
    pe := 0
    io := 0
    inPorts := Vector.replicate 11 InPort.idle
    outPorts := Vector.replicate 11 OutPort.idle
    broadcast := none
    bootPort := none
    mem := Memory.afterReset
    errorFlag := true
    romActive := true
    inhibit := false
    ueMarker := false
    uePending := false
    cePending := false
    waiting := false
    stuck := false
    traceDue := false
    dirty := []
    pairHazard := []
    pieceHazard := []
    written := []
    freeCount := 0
    during := []
    nextByte := 0
    schedule := [] }

/-- The machine right after hardware reset (10 R50): the mode flag is the level of the ERROR/ pin
(70 R461 step 1). -/
def State.reset : State :=
  State.resetNode Config.isIoNode

end Sys2Proof.Machine
end

