-- ==== Sys2Proof/Machine/Flags.lean ====
section
/-! DEFINITION. The Program Status register (10 R14) and every flag computation of the integer,
logical and shift instructions (40, 41): each computation gives the result to store and the flags.
The floating-point ones are in FloatArith.lean. -/

namespace Sys2Proof.Machine

/-! ### Bits of a register -/

/-- Set bit i of a word to b. -/
def setBit (x : Word) (i : Nat) (b : Bool) : Word :=
  if b then x ||| (1#32 <<< i) else x &&& ~~~(1#32 <<< i)

/-! ### The fields of PS (10 R14) -/

/-- PS.C, Carry. -/
def Ps.c (ps : Word) : Bool := ps.getLsbD 0
/-- PS.V, Integer Overflow. -/
def Ps.v (ps : Word) : Bool := ps.getLsbD 1
/-- PS.Z, Zero. -/
def Ps.z (ps : Word) : Bool := ps.getLsbD 2
/-- PS.N, Negative. -/
def Ps.n (ps : Word) : Bool := ps.getLsbD 3
/-- PS.U, Unordered. -/
def Ps.u (ps : Word) : Bool := ps.getLsbD 4
/-- PS.IIX, Inexact Result interrupt enable. -/
def Ps.iix (ps : Word) : Bool := ps.getLsbD 10
/-- PS.IV, Integer Overflow interrupt enable. -/
def Ps.iv (ps : Word) : Bool := ps.getLsbD 15
/-- PS.CE, Correctable ECC interrupt enable. -/
def Ps.ce (ps : Word) : Bool := ps.getLsbD 16
/-- PS.TO, Timeout interrupt enable. -/
def Ps.to (ps : Word) : Bool := ps.getLsbD 17
/-- PS.II, input interrupts enable. -/
def Ps.ii (ps : Word) : Bool := ps.getLsbD 18
/-- PS.IO, output interrupts enable. -/
def Ps.io (ps : Word) : Bool := ps.getLsbD 19
/-- PS.IE, the master Interrupt Enable. -/
def Ps.ie (ps : Word) : Bool := ps.getLsbD 20
/-- PS.T, Trace. -/
def Ps.t (ps : Word) : Bool := ps.getLsbD 21
/-- PS.RC, Round Control (10 R18). -/
def Ps.rc (ps : Word) : BitVec 2 := ps.extractLsb' 24 2
/-- PS.REPREG, the count register of a REPEAT (10 R19). -/
def Ps.repReg (ps : Word) : Reg := ⟨ps.toNat / 2 ^ 26 % 16, Nat.mod_lt _ (by decide)⟩
/-- PS.REP, the Repeat Mode (10 R19). -/
def Ps.rep (ps : Word) : BitVec 2 := ps.extractLsb' 30 2

/-- PS with PS.REP replaced. -/
def Ps.withRep (ps : Word) (mode : BitVec 2) : Word :=
  setBit (setBit ps 30 (mode.getLsbD 0)) 31 (mode.getLsbD 1)

/-- PS with PS.REPREG replaced. -/
def Ps.withRepReg (ps : Word) (r : Reg) : Word :=
  (ps &&& ~~~0x3C000000#32) ||| BitVec.ofNat 32 (r.val * 2 ^ 26)

/-- The reserved bits of PS: 11 to 14, 22 and 23 (10 R20). -/
def Ps.reservedMask : Word := 0x00C07800

/-- Whether the reserved bits of a PS value are 0 (10 R20, 93 U18). -/
def Ps.legal (ps : Word) : Bool := ps &&& Ps.reservedMask == 0

/-- PS with the condition flags C, V, Z, N, U written (10 R15). -/
def Ps.withCond (ps : Word) (c v z n u : Bool) : Word :=
  setBit (setBit (setBit (setBit (setBit ps 0 c) 1 v) 2 z) 3 n) 4 u

/-- PS with the floating-point exception flags IX, UF, FZ, OF, IN written (10 R16). -/
def Ps.withFp (ps : Word) (ix uf fz ovf inv : Bool) : Word :=
  setBit (setBit (setBit (setBit (setBit ps 5 ix) 6 uf) 7 fz) 8 ovf) 9 inv

/-! ### Integer arithmetic (40) -/

/-- What an integer instruction computes: the result to store and C, V, Z, N; U is written 0
(40 R140). -/
structure AluResult (w : Nat) where
  des : BitVec w
  c : Bool
  v : Bool
  z : Bool
  n : Bool
  deriving DecidableEq, Repr

/-- Whether an exact result fits a w-bit two's complement integer (40 R140). -/
def outOfRange (w : Nat) (exact : Int) : Bool :=
  decide (exact < -(2 ^ (w - 1) : Int)) || decide ((2 ^ (w - 1) : Int) - 1 < exact)

/-- The general shape of 40 R140: store the low-order part, Z from the stored result, N from the exact
one, V when it is out of range. -/
def arithResult (w : Nat) (exact : Int) (carry : Bool) : AluResult w :=
  let des := BitVec.ofInt w exact
  { des := des, c := carry, v := outOfRange w exact, z := des == 0, n := decide (exact < 0) }

/-- ADD and ADC: src + dsrc + carry in (40 R141, R142). -/
def addResult {w : Nat} (src dsrc : BitVec w) (cin : Bool) : AluResult w :=
  arithResult w (dsrc.toInt + src.toInt + cin.toNat)
    (decide (2 ^ w ≤ dsrc.toNat + src.toNat + cin.toNat))

/-- SUB and SBB: dsrc - src - carry in; C is the borrow (40 R143, R144). -/
def subResult {w : Nat} (src dsrc : BitVec w) (cin : Bool) : AluResult w :=
  arithResult w (dsrc.toInt - src.toInt - cin.toNat)
    (decide (dsrc.toNat < src.toNat + cin.toNat))

/-- SBR: src - dsrc (40 R145). -/
def sbrResult {w : Nat} (src dsrc : BitVec w) : AluResult w :=
  arithResult w (src.toInt - dsrc.toInt) (decide (src.toNat < dsrc.toNat))

/-- NEG: -src (40 R146). -/
def negResult {w : Nat} (src : BitVec w) : AluResult w :=
  arithResult w (-src.toInt) (src != 0)

/-- CMP: the flags of the exact src - dsrc, V written 0; the result is not stored (40 R147). -/
def cmpResult {w : Nat} (src dsrc : BitVec w) : AluResult w :=
  { des := 0, c := decide (src.toNat < dsrc.toNat), v := false,
    z := decide (src.toInt - dsrc.toInt = 0), n := decide (src.toInt - dsrc.toInt < 0) }

/-- MUL: src * dsrc, C unchanged (40 R148). -/
def mulResult {w : Nat} (src dsrc : BitVec w) (c : Bool) : AluResult w :=
  arithResult w (src.toInt * dsrc.toInt) c

/-- Division of two integers truncated toward zero, C unchanged: none on a zero divisor; the most
negative dividend divided by -1 stores the dividend and overflows (40 R149, R150, R155). -/
def divResult {w : Nat} (dividend divisor : BitVec w) (c : Bool) : Option (AluResult w) :=
  if divisor.toInt = 0 then none
  else
    let exact := dividend.toInt.tdiv divisor.toInt
    let tooBig := decide (dividend.toInt = -(2 ^ (w - 1) : Int)) && decide (divisor.toInt = -1)
    let des := if tooBig then dividend else BitVec.ofInt w exact
    some { des := des, c := c, v := tooBig, z := des == 0, n := decide (exact < 0) }

/-- REM: the remainder with the sign of the dividend, V written 0, C unchanged; none on a zero
divisor (40 R151, R155). -/
def remResult {w : Nat} (dividend divisor : BitVec w) (c : Bool) : Option (AluResult w) :=
  if divisor.toInt = 0 then none
  else
    let exact := dividend.toInt.tmod divisor.toInt
    let des := BitVec.ofInt w exact
    some { des := des, c := c, v := false, z := des == 0, n := decide (exact < 0) }

/-! ### Decimal (40 R152, R153) -/

/-- The value of two decimal digits in a byte. -/
def bcdValue (x : Byte) : Nat := 10 * (x.toNat / 16) + x.toNat % 16

/-- Whether both nibbles are decimal digits. -/
def bcdValid (x : Byte) : Bool := decide (x.toNat / 16 ≤ 9) && decide (x.toNat % 16 ≤ 9)

/-- The two decimal digits of a number below 100. -/
def bcdByte (k : Nat) : Byte := BitVec.ofNat 8 (k / 10 * 16 + k % 10)

/-- The flags of a decimal result: N, V and U are 0 (40 R152, R153). -/
def decimalResult (des : Byte) (c : Bool) : AluResult 8 :=
  { des := des, c := c, v := false, z := des == 0, n := false }

/-- ADCD: decimal src + dsrc + carry. On an invalid digit the byte and the carry are free values
drawn at count k, and Z is computed from that byte (40 R152, 93 U13; log 34). -/
def adcdResult (k : Nat) (src dsrc : Byte) (cin : Bool) : AluResult 8 :=
  if bcdValid src && bcdValid dsrc then
    let t := bcdValue src + bcdValue dsrc + cin.toNat
    decimalResult (bcdByte (t % 100)) (decide (100 ≤ t))
  else decimalResult (Config.freeDecimal k) (Config.freeDecimalCarry k)

/-- SBBD: decimal dsrc - src - borrow (40 R153, 93 U13; log 34). -/
def sbbdResult (k : Nat) (src dsrc : Byte) (cin : Bool) : AluResult 8 :=
  if bcdValid src && bcdValid dsrc then
    let t : Int := (bcdValue dsrc : Int) - bcdValue src - cin.toNat
    decimalResult (bcdByte (t % 100).toNat) (decide (t < 0))
  else decimalResult (Config.freeDecimal k) (Config.freeDecimalCarry k)

/-! ### Logical and shift (41) -/

/-- The flags of a logical result: N its top bit, V 0, C unchanged (41 R180 to R184). -/
def logicResult {w : Nat} (des : BitVec w) (c : Bool) : AluResult w :=
  { des := des, c := c, v := false, z := des == 0, n := des.msb }

/-- One place of a shift or rotate: the value and the bit shifted out. -/
structure ShiftState (w : Nat) where
  x : BitVec w
  c : Bool
  deriving DecidableEq, Repr

/-- One place to the left, 0 entering (41 R186, R187). -/
def shiftLeftOnce {w : Nat} (s : ShiftState w) : ShiftState w :=
  { x := s.x <<< 1, c := s.x.msb }

/-- One place to the right, 0 entering (41 R186). -/
def shiftRightOnce {w : Nat} (s : ShiftState w) : ShiftState w :=
  { x := s.x >>> 1, c := s.x.getLsbD 0 }

/-- One place to the right, the sign copied (41 R187). -/
def shiftSignedOnce {w : Nat} (s : ShiftState w) : ShiftState w :=
  { x := s.x.sshiftRight 1, c := s.x.getLsbD 0 }

/-- One place of rotation to the left (41 R188). -/
def rotateLeftOnce {w : Nat} (s : ShiftState w) : ShiftState w :=
  { x := s.x.rotateLeft 1, c := s.x.msb }

/-- One place of rotation to the right (41 R188). -/
def rotateRightOnce {w : Nat} (s : ShiftState w) : ShiftState w :=
  { x := s.x.rotateRight 1, c := s.x.getLsbD 0 }

/-- Repeat a one-place step n times. -/
def shiftTimes {w : Nat} (once : ShiftState w → ShiftState w) : Nat → ShiftState w → ShiftState w
  | 0, s => s
  | n + 1, s => shiftTimes once n (once s)

/-- The start of a shift: the carry of a count of 0 is the low bit of the operand (41 R185). -/
def shiftStart {w : Nat} (dsrc : BitVec w) : ShiftState w := { x := dsrc, c := dsrc.getLsbD 0 }

/-- SFT, logical: a positive count to the left, a negative one to the right (41 R186). -/
def sftResult {w : Nat} (cnt : Byte) (dsrc : BitVec w) : AluResult w :=
  let s := shiftTimes (if 0 < cnt.toInt then shiftLeftOnce else shiftRightOnce)
    cnt.toInt.natAbs (shiftStart dsrc)
  logicResult s.x s.c

/-- SFA, arithmetic: V when a left shift's exact result is out of range, N the sign of the exact
result of a left shift (41 R187). -/
def sfaResult {w : Nat} (cnt : Byte) (dsrc : BitVec w) : AluResult w :=
  let s := shiftTimes (if 0 < cnt.toInt then shiftLeftOnce else shiftSignedOnce)
    cnt.toInt.natAbs (shiftStart dsrc)
  { des := s.x, c := s.c,
    v := decide (0 < cnt.toInt) && outOfRange w (dsrc.toInt * 2 ^ cnt.toInt.natAbs),
    z := s.x == 0,
    n := if 0 < cnt.toInt then decide (dsrc.toInt < 0) else s.x.msb }

/-- ROT: a negative count rotates left, a positive one right, the carry not taking part (41 R188). -/
def rotResult {w : Nat} (cnt : Byte) (dsrc : BitVec w) : AluResult w :=
  let s := shiftTimes (if cnt.toInt < 0 then rotateLeftOnce else rotateRightOnce)
    cnt.toInt.natAbs (shiftStart dsrc)
  logicResult s.x s.c

/-- The number of the lowest bit that is 1 among the n bits from bit i on, or i + n (41 R189). -/
def firstOne {w : Nat} (x : BitVec w) : Nat → Nat → Nat
  | i, 0 => i
  | i, n + 1 => if x.getLsbD i then i else firstOne x (i + 1) n

/-- FFO: the position of the first one, or the width when there is none; N and V 0, Z when there is
none, C unchanged (41 R189). -/
def ffoResult {w : Nat} (src : BitVec w) (c : Bool) : AluResult 8 :=
  { des := BitVec.ofNat 8 (firstOne src 0 w), c := c, v := false, z := src == 0, n := false }

/-! ### Conversions between integers (42 R214 to R217) -/

/-- CVBW and CVHW: sign extension, C unchanged (42 R214, R215). -/
def widenResult {w : Nat} (src : BitVec w) (c : Bool) : AluResult 32 :=
  arithResult 32 src.toInt c

/-- CVWB and CVWH: the low-order part, V when the value does not fit (42 R216, R217). -/
def narrowResult (w : Nat) (src : Word) (c : Bool) : AluResult w :=
  arithResult w src.toInt c

end Sys2Proof.Machine
end

