-- ==== Sys2Proof/Machine/Memory.lean ====
section
/-! DEFINITION. The memory of a node as a canonical list of cells: reading and writing one byte and
little-endian runs of bytes (20 R60 to R66). -/

namespace Sys2Proof.Machine

/-- The bytes that exist: addresses 0 to 0x1FFFF (20 R60). -/
def memoryBytes : Nat := 131072

/-- The byte at an address; an address that is not listed holds 0 (log 5). -/
def Memory.get : Memory → Nat → Byte
  | [], _ => 0
  | (k, b) :: rest, a => if k = a then b else Memory.get rest a

/-- Put a cell before the first one of a greater address. -/
def Memory.insertCell : Memory → Nat → Byte → Memory
  | [], a, v => [(a, v)]
  | (k, b) :: rest, a, v =>
    if a < k then (a, v) :: (k, b) :: rest else (k, b) :: Memory.insertCell rest a v

/-- Store one byte, keeping the canonical form: a byte of 0 is not listed. -/
def Memory.set (m : Memory) (a : Nat) (v : Byte) : Memory :=
  if v = 0 then m.filter (fun c => c.1 != a)
  else Memory.insertCell (m.filter (fun c => c.1 != a)) a v

/-- The value of the n bytes from address a, low-order byte first (20 R62). -/
def Memory.read (m : Memory) : Nat → Nat → Nat
  | _, 0 => 0
  | a, n + 1 => (m.get a).toNat + 256 * Memory.read m (a + 1) n

/-- Store the n low-order bytes of v from address a on, low-order byte first (20 R62). -/
def Memory.write (m : Memory) : Nat → Nat → Nat → Memory
  | _, 0, _ => m
  | a, n + 1, v => Memory.write (m.set a (BitVec.ofNat 8 v)) (a + 1) n (v / 256)

/-- Store the n low-order bytes of v from address a on, but for the addresses of a list. -/
def Memory.writeRest (m : Memory) (done : List Nat) : Nat → Nat → Nat → Memory
  | _, 0, _ => m
  | a, n + 1, v =>
    Memory.writeRest (if a ∈ done then m else m.set a (BitVec.ofNat 8 v)) done (a + 1) n (v / 256)

/-- The canonical form from address lo on: addresses rise strictly and stay below the end of
memory, and no cell holds 0. -/
def Memory.wfFrom : Nat → Memory → Bool
  | _, [] => true
  | lo, (k, b) :: rest =>
    decide (lo ≤ k) && decide (k < memoryBytes) && b != 0 && Memory.wfFrom (k + 1) rest

/-- The canonical form of a memory: equal contents are equal lists. -/
def Memory.wf (m : Memory) : Bool := Memory.wfFrom 0 m

/-- Whether the n bytes at address a all exist: the check of 20 R64 on the full 32-bit address,
without wrap. -/
def inMemory (a : Word) (n : Nat) : Bool := decide (a.toNat + n ≤ memoryBytes)

/-- Whether a processor access of n bytes at a is atomic: a byte, or 2 or 4 bytes that are aligned (20 R68, the spec's
decision D6). -/
def atomicAccess (a n : Nat) : Bool := n == 1 || ((n == 2 || n == 4) && a % n == 0)

end Sys2Proof.Machine
end

