-- ==== Sys2Proof/Machine/Storage.lean ====
section
/-! DEFINITION. Results of the parts of an instruction, and stored memory as an access sees it: its bytes, the stores
since the last transfer of control (20 R76), and floating-point data in pieces (20 R65, 70 R481). -/

namespace Sys2Proof.Machine

/-! ### Results of the parts of an instruction -/

/-- What a part of an instruction gives: a value and a state; a raised exception or interrupt number with
the state in which it is raised (earlier side effects stay, 20 R64); or a refusal. -/
inductive Res (α : Type) where
  | ok (a : α) (s : State)
  | exc (n : Nat) (s : State)
  | refused (r : Refusal)
  deriving DecidableEq, Repr

/-- One part after another; the first that does not answer ends the instruction (60 R431). -/
def Res.bind {α β : Type} (x : Res α) (f : α → State → Res β) : Res β :=
  match x with
  | .ok a s => f a s
  | .exc n s => .exc n s
  | .refused r => .refused r

/-! ### Floating-point data in pieces (20 R65, 70 R481; log 16) -/

/-- Whether a store is to the byte at x. -/
def Stored.covers (h : Stored) (x : Nat) : Bool := decide (h.addr ≤ x) && decide (x < h.addr + h.len)

/-- Whether a store lies within the n bytes at a. -/
def Stored.within (h : Stored) (a n : Nat) : Bool := decide (a ≤ h.addr) && decide (h.addr + h.len ≤ a + n)

/-- Whether a store takes in the n bytes at a. -/
def Stored.takesIn (h : Stored) (a n : Nat) : Bool := decide (h.addr ≤ a) && decide (a + n ≤ h.addr + h.len)

/-- Whether a store has left a misaligned Real or Longreal (70 R481). -/
def Stored.misaligned (h : Stored) : Bool := h.kind == .float && h.addr % h.len != 0

/-- Whether n bytes read at a, with a byte last stored by h, are a piece of a misaligned Real or Longreal: by a Byte,
Halfword or Word access to a part of it (70 R481), or by a Real operand (fp) narrower than it (20 R65). -/
def Stored.readInPieces (h : Stored) (fp : Bool) (a n : Nat) : Bool :=
  h.misaligned && !h.within a n && (!fp || decide (n < h.len))

/-- The reverse (20 R65): whether the misaligned Real or Longreal of n bytes at a has been stored in pieces, h being
one: a store narrower than the datum, or a Word over a part of one that was stored whole (70 R481). -/
def Stored.storedInPieces (h : Stored) (ws : List Stored) (a n : Nat) : Bool :=
  decide (a % n ≠ 0) && h.kind != .agent && !h.takesIn a n
    && (decide (h.len < n) || (h.kind == .other && ws.any fun g => g.kind == .float && g.addr == a && g.len == n))

/-- Whether the byte at x is a free value in a read of n bytes at a, by a Real or Longreal operand (fp) or not
(20 R65, 70 R481; log 16). -/
def State.stale (s : State) (fp : Bool) (a n x : Nat) : Bool :=
  match s.written.find? (·.covers x) with
  | some h => h.readInPieces fp a n || (fp && h.storedInPieces s.written a n)
  | none => false

/-- The byte at x as a read of n bytes at a sees it (70 R481, 93 U7; log 16). -/
def State.byteSeen (s : State) (fp : Bool) (a n x : Nat) : Byte :=
  if s.stale fp a n x then Config.staleByte s.freeCount x else s.mem.get x

/-- The value of the k bytes from x on, low-order byte first (20 R62), in a read of n bytes at a of which the bytes
of a list are taken already. -/
def State.bytesSeen (s : State) (fp : Bool) (a n : Nat) (got : List (Nat × Byte)) : Nat → Nat → Nat
  | _, 0 => 0
  | x, k + 1 =>
    ((got.lookup x).getD (s.byteSeen fp a n x)).toNat + 256 * s.bytesSeen fp a n got (x + 1) k

/-- MemRead without the address check and in one piece: n bytes at a (20 R62). -/
def State.load (s : State) (fp : Bool) (a n : Nat) : Nat := s.bytesSeen fp a n [] a n

/-- The record of stores after one more: it replaces those within it. Another agent's store is noted only where it
falls on one that is recorded. -/
def storesAfter (kind : Storer) (a n : Nat) (ws : List Stored) : List Stored :=
  let rest := ws.filter (fun h => !h.within a n)
  if kind == .agent && rest.all (fun h => decide (a + n ≤ h.addr) || decide (h.addr + h.len ≤ a)) then rest
  else { addr := a, len := n, kind := kind } :: rest

/-- MemWrite without the address check and in one piece: the n low-order bytes of v at a (20 R62), remembered as
stored since the last taken transfer (20 R76; log 15). -/
def State.store (s : State) (kind : Storer) (a n v : Nat) : State :=
  { s with
    mem := s.mem.write a n v
    dirty := (a, n) :: s.dirty
    written := storesAfter kind a n s.written }

end Sys2Proof.Machine
end

