-- ==== Sys2Proof/Machine/Ports.lean ====
section
/-! DEFINITION. The ports of a node and the processor registers that show them (10 R26 to R34, 46 R360 to
R362). -/

namespace Sys2Proof.Machine

/-- The bit of a port in the port status registers (10 R26). -/
def portBit (p : PortIx) : Nat := if p.val = 10 then 31 else p.val

/-- The bits of existing ports: 9..0 and 31 (10 R26). -/
def portMask : Word := 0x800003FF

/-- A port status register from one flag per port; bits 10 to 30 are 0 (10 R26). -/
def portFlags (f : PortIx → Bool) : Word :=
  (List.finRange 11).foldl (fun w p => setBit w (portBit p) (f p)) 0

/-- P6 OR: the output ports whose count is zero (10 R27, 46 R372; log 25). -/
def State.outputReady (s : State) : Word := portFlags fun p => (s.outPorts.get p).count == 0

/-- P7 IR: the input ports whose count is zero (10 R28, 46 R376; log 25). -/
def State.inputReady (s : State) : Word := portFlags fun p => (s.inPorts.get p).count == 0

/-- P10 IP: the input ports whose count is zero and whose latch is full (10 R31, 46 R375; log 25). -/
def State.inputPending (s : State) : Word :=
  portFlags fun p => (s.inPorts.get p).count == 0 && (s.inPorts.get p).latch.isSome

/-- A port by its number: an input port (0 to 9, 31) or an output port (32 to 41, 63) (46 R360,
R361). -/
inductive Port where
  | input (p : PortIx)
  | output (p : PortIx)
  deriving DecidableEq, Repr

/-- The port with a number; none for a number that names no port (46 R361). -/
def portOfNumber (n : Byte) : Option Port :=
  if h : n.toNat < 10 then some (.input ⟨n.toNat, by omega⟩)
  else if n.toNat = 31 then some (.input 10)
  else if h : 32 ≤ n.toNat ∧ n.toNat < 42 then some (.output ⟨n.toNat - 32, by omega⟩)
  else if n.toNat = 63 then some (.output 10)
  else none

/-- Whether a mask selects an output port (46 R361). -/
def selects (m : Word) (p : PortIx) : Bool := m.getLsbD (portBit p)

/-- An address or count as a port register holds it: the low bit is forced to zero (46 R362). -/
def evenPart (v : Word) : Word := v &&& 0xFFFFFFFE

/-- Change one input port. -/
def State.setInPort (s : State) (p : PortIx) (q : InPort) : State :=
  { s with inPorts := s.inPorts.set p q }

/-- Change one output port. -/
def State.setOutPort (s : State) (p : PortIx) (q : OutPort) : State :=
  { s with outPorts := s.outPorts.set p q }

/-- Change every output port that a mask selects. -/
def State.mapSelected (s : State) (m : Word) (f : OutPort → OutPort) : State :=
  { s with outPorts := Vector.ofFn fun p : PortIx =>
      if selects m p then f (s.outPorts.get p) else s.outPorts.get p }

/-- Whether some output port that a mask selects satisfies a test. -/
def State.anySelected (s : State) (m : Word) (f : OutPort → Bool) : Bool :=
  (List.finRange 11).any fun p => selects m p && f (s.outPorts.get p)

/-- The address register that a broadcast uses: that of the first selected port (46 R366). -/
def State.firstAddress (s : State) (m : Word) : Word :=
  match (List.finRange 11).find? (selects m) with
  | some p => (s.outPorts.get p).addr
  | none => 0

end Sys2Proof.Machine
end

