-- ==== Sys2Proof/Machine/ShadowRom.lean ====
section
/-! DEFINITION. The shadow ROM: the on-chip program that runs after hardware reset (70 R463, R467), in the
assembly that 95 X9 gives; the source gives no bytes (log 7). -/

namespace Sys2Proof.Machine

/-- The bytes of the shadow ROM from its first instruction on (70 R467, 95 X9; log 7). -/
def shadowRom : List Byte :=
  -- 0: RSET
  [0x7B#8] ++
  -- 1: MOVW #5,R0
  [0x04#8, 0x05#8, 0xC0#8] ++
  -- 4: REP R0
  [0x1E#8, 0xC0#8] ++
  -- 6: RSET
  [0x7B#8] ++
  -- 7: LDPR #4,#CONFIG
  [0x85#8, 0x04#8, 0x03#8] ++
  -- 10: LDPR #16r8000,#SPREG
  [0x85#8, 0xFD#8, 0x00#8, 0x80#8, 0x00#8, 0x00#8, 0x00#8] ++
  -- 17: MOVW #0,0
  [0x04#8, 0x00#8, 0xF8#8, 0x00#8] ++
  -- 21: MOVW #16r0000AAAA,4
  [0x04#8, 0xFD#8, 0xAA#8, 0xAA#8, 0x00#8, 0x00#8, 0xF8#8, 0x04#8] ++
  -- 29: STPR #IDREG,R0
  [0x95#8, 0x04#8, 0xC0#8] ++
  -- 32: BL IOINIT
  [0x5F#8, 0xF0#8, 0x3C#8] ++
  -- 35: PROCINIT: STPR #INPEND,R0
  [0x95#8, 0x0A#8, 0xC0#8] ++
  -- 38: BE PROCINIT
  [0x9F#8, 0x3D#8] ++
  -- 40: FFOW R0,R1
  [0x35#8, 0xC0#8, 0xC1#8] ++
  -- 43: LPTR #0,R1
  [0xB5#8, 0x00#8, 0xC1#8] ++
  -- 46: LCNT #2,R1
  [0xA5#8, 0x02#8, 0xC1#8] ++
  -- 49: MOVW R1,R3
  [0x04#8, 0xC1#8, 0xC3#8] ++
  -- 52: ADDW #32,R3
  [0x44#8, 0xFD#8, 0x20#8, 0x00#8, 0x00#8, 0x00#8, 0xC3#8] ++
  -- 59: INWAIT1: STPR #INRDY,R2
  [0x95#8, 0x07#8, 0xC2#8] ++
  -- 62: BITW R2,R0
  [0xC4#8, 0xC2#8, 0xC0#8] ++
  -- 65: BE INWAIT1
  [0x9F#8, 0x3A#8] ++
  -- 67: LPTR #4,R3
  [0xB5#8, 0x04#8, 0xC3#8] ++
  -- 70: LCNT #2,R3
  [0xA5#8, 0x02#8, 0xC3#8] ++
  -- 73: LPTR #8,R1
  [0xB5#8, 0x08#8, 0xC1#8] ++
  -- 76: LCNT 0,R1
  [0xA5#8, 0xF8#8, 0x00#8, 0xC1#8] ++
  -- 80: INWAIT2: STPR #INRDY,R2
  [0x95#8, 0x07#8, 0xC2#8] ++
  -- 83: BITW R2,R0
  [0xC4#8, 0xC2#8, 0xC0#8] ++
  -- 86: BE INWAIT2
  [0x9F#8, 0x3A#8] ++
  -- 88: JMP 1024
  [0xDF#8, 0xF9#8, 0x00#8, 0x04#8] ++
  -- 92: IOINIT: BITH #-1,0
  [0xC2#8, 0x3F#8, 0xF8#8, 0x00#8] ++
  -- 96: BE IOINIT
  [0x9F#8, 0x3C#8] ++
  -- 98: JMP 1024
  [0xDF#8, 0xF9#8, 0x00#8, 0x04#8]

/-- The offset after the instruction that clears memory bytes 4 to 7 (70 R469, 92 D35). -/
def romAfterClear : Nat := 29

/-- The offset after the instruction that selects the boot port, FFOW (70 R467). -/
def romAfterSelect : Nat := 43

/-- The offset of the instruction that starts the store of the boot length, LCNT #2 (70 R467). -/
def romLengthCount : Nat := 46

/-- The offset after the instruction that starts the store of the boot image, LCNT 0 (70 R485). -/
def romAfterImageCount : Nat := 80

end Sys2Proof.Machine
end

