-- ==== Sys2Proof/Machine/Agents.lean ====
section
/-! DEFINITION. The agents beside the processor: port engines, links, the broadcast engine, the TR
countdown, the host, the reset pin (46 R370 to R376, R366, 60 R441, 20 R73, 70 R461). A move that is not
enabled changes nothing (log 36). -/

namespace Sys2Proof.Machine

/-- The byte address of a DMA halfword: bits 16..1 of the address register (20 R78). -/
def dmaAddress (a : Word) : Nat := a.toNat % memoryBytes / 2 * 2

/-- An output port has handed a halfword to its link (46 R371). -/
def OutPort.sent (q : OutPort) (h : Half) : OutPort :=
  { addr := q.addr + 2, count := q.count - 2, link := some h }

/-- Whether an output port can take a step: a transfer in progress and a free link (46 R371, R373). -/
def OutPort.canSend (q : OutPort) : Bool := q.count != 0 && q.link.isNone

/-- The halfword at the address of a port (46 R371). -/
def State.halfAt (s : State) (a : Word) : Half := BitVec.ofNat 16 (s.mem.read (dmaAddress a) 2)

/-- Whether a port is a member of the broadcast in progress (46 R366). -/
def State.broadcasting (s : State) (p : PortIx) : Bool :=
  match s.broadcast with
  | some m => selects m p
  | none => false

/-- Output port step (46 R371); members of a broadcast move with it (46 R366). -/
def stepSend (p : PortIx) (s : State) : State :=
  let q := s.outPorts.get p
  if q.canSend && !s.broadcasting p then s.setOutPort p (q.sent (s.halfAt q.addr)) else s

/-- Broadcast step: one halfword is read and handed to all selected ports together; the record ends when
their counts are zero (46 R366). -/
def stepBroadcast (s : State) : State :=
  match s.broadcast with
  | none => s
  | some m =>
    if s.anySelected m (fun q => !q.canSend) then s
    else
      let h := s.halfAt (s.firstAddress m)
      let t := s.mapSelected m (·.sent h)
      { t with broadcast := if t.anySelected m (fun q => q.count != 0) then some m else none }

/-- The far end takes the halfword on an outgoing link (46 R373). -/
def stepLinkTaken (p : PortIx) (s : State) : State :=
  s.setOutPort p { s.outPorts.get p with link := none }

/-- Set one port's bit of PE and of IO (46 R374, R376). -/
def State.showErrors (s : State) (p : PortIx) (parity overrun : Bool) : State :=
  { s with pe := setBit s.pe (portBit p) parity, io := setBit s.io (portBit p) overrun }

/-- Arrival of a halfword at an input port (46 R374, R379). -/
def stepArrive (p : PortIx) (h : Half) (bad : Bool) (s : State) : State :=
  let q := s.inPorts.get p
  let q' : InPort := { q with
    latch := some h
    parityNoted := q.parityNoted || bad
    overrunNoted := q.overrunNoted || q.latch.isSome }
  let t := s.setInPort p q'
  if q.count = 0 then
    t.showErrors p (t.pe.getLsbD (portBit p) || q'.parityNoted)
      (t.io.getLsbD (portBit p) || q'.overrunNoted)
  else t

/-- Input port store step, and completion when the count reaches zero (46 R374, R376). -/
def stepStore (p : PortIx) (s : State) : State :=
  let q := s.inPorts.get p
  match q.latch with
  | none => s
  | some h =>
    if q.count = 0 then s
    else
      let q' : InPort := { q with addr := q.addr + 2, count := q.count - 2, latch := none }
      let t := (s.store .agent (dmaAddress q.addr) 2 h.toNat).setInPort p q'
      if q'.count = 0 then t.showErrors p q.parityNoted q.overrunNoted else t

/-- An arrival at port p, remembered as the loader's while the shadow ROM is active: its RSETs empty the latch, but one
loader sends to one port only (70 R485; log 27). -/
def arriveFrom (p : PortIx) (h : Half) (bad : Bool) (s : State) : State :=
  { stepArrive p h bad s with bootPort := if s.romActive then some p else s.bootPort }

/-- Whether an arrival at port p breaks the boot protocol of an array-board node: another port has been sent to or
selected, or has a halfword or a transfer in progress; the latch still holds an earlier halfword that the image must not
overrun; or the length halfword is odd or below 1018 (70 R485, 93 U19; log 27). -/
def breaksBoot (p : PortIx) (h : Half) (s : State) : Bool :=
  let q := s.inPorts.get p
  s.romActive && !s.pi.getLsbD 31 &&
    (s.bootPort.any (· != p)
      || (decide (romAfterSelect ≤ s.pc.toNat) && s.regs.get 1 != BitVec.ofNat 32 (portBit p))
      || (List.finRange 11).any (fun r =>
        r != p && ((s.inPorts.get r).latch.isSome || (s.inPorts.get r).count != 0))
      || (q.latch.isSome && decide (s.pc.toNat < romAfterImageCount))
      || (q.latch.isNone && decide (s.pc.toNat ≤ romLengthCount)
          && (decide (h.toNat < 1018) || h.getLsbD 0)))

/-- The host writes an aligned halfword of an I/O-board node's memory (20 R73, R68), at any time but for the boot flag,
the halfword at location 0: that one only after the shadow ROM has executed both its moves (70 R469, 92 D35; log 28).
-/
def stepHost (a : Word) (h : Half) (s : State) : Res Unit :=
  if !s.pi.getLsbD 31 || decide (memoryBytes ≤ a.toNat) then .refused .noHostWindow
  else if s.romActive && decide (s.pc.toNat < romAfterClear) && decide (a.toNat < 2) then
    .refused .bootProtocol
  else .ok () (s.store .agent (dmaAddress a) 2 h.toNat)

/-- Hardware reset of a running node (70 R461, R475, R50); the environment's further choices and the count
of free values go on (log 30). -/
def stepReset (s : State) : State :=
  { State.resetNode Config.isIoNode with schedule := s.schedule, freeCount := s.freeCount }

/-- The move of an agent beside the processor. -/
def agentMove (m : Move) (s : State) : Res Unit :=
  match m with
  | .tick => .ok () { s with tr := if s.tr = 0 then 0 else s.tr - 1 }
  | .arrive p h bad => if breaksBoot p h s then .refused .bootProtocol else .ok () (arriveFrom p h bad s)
  | .storeLatch p => .ok () (stepStore p s)
  | .send p => .ok () (stepSend p s)
  | .broadcastSend => .ok () (stepBroadcast s)
  | .linkTaken p => .ok () (stepLinkTaken p s)
  | .hostWrite a h => stepHost a h s

end Sys2Proof.Machine
end

