-- ==== Sys2Proof/WellFormed.lean ====
section
/-! DEFINITION. Which instruction terms are instructions of the encoding: every term the decoder
answers is well formed, and every well-formed term has an encoding. An illegal address field (a literal as a
destination, say) is well formed: the processor decodes it and raises Operand Error (30 R114). -/

namespace Sys2Proof

/-- The mode bytes that are RESERVED or ESCAPE (30 R98). -/
def isReservedMode (b : Byte) : Bool :=
  decide (224 ≤ b.toNat ∧ b.toNat < 240) || decide (254 ≤ b.toNat)

/-- A field that an encoding gives: a `reserved` field carries a reserved mode byte, and no
`truncated` field occurs. -/
def Mode.wellFormed {t : OpType} : Mode t → Bool
  | .reserved b => isReservedMode b
  | .truncated _ => false
  | _ => true

/-- The low nibbles (TP columns) of the RES opcodes in each row OP of the opcode map (30 R94). -/
def reservedColumns : List (List Nat) :=
  [[6, 7, 12, 13, 14],
   [6, 7, 12, 13],
   [6, 7, 9, 12, 13],
   [6, 7, 12, 13],
   [6, 7, 12, 13],
   [6, 7, 12, 13, 14],
   [6, 7, 12, 13, 14],
   [6, 7, 12, 13, 14],
   [3, 6, 7, 12, 13, 14],
   [3, 6, 7, 12, 13, 14],
   [1, 3, 6, 7, 12, 13, 14],
   [1, 3, 6, 7, 11, 12, 13, 14],
   [1, 3, 6, 7, 8, 9, 10, 12, 13, 14],
   [0, 1, 2, 3, 4, 6, 7, 8, 9, 10, 12, 13, 14],
   [0, 1, 2, 3, 4, 6, 7, 8, 9, 10, 12, 13, 14],
   [0, 2, 4, 6, 14]]

/-- Whether an opcode byte is marked RES in the opcode map (30 R94, R96). -/
def isReservedOpcode (op : Byte) : Bool :=
  ((reservedColumns[op.toNat / 16]?).getD []).contains (op.toNat % 16)

/-- The columns of row F that are marked ESC in the opcode map (30 R94, R97). -/
def escapeColumns : List Nat := [1, 3, 5, 7, 8, 9, 10, 11, 12, 13, 15]

/-- Whether an opcode byte is marked ESC in the opcode map (30 R94, R97). -/
def isEscapeOpcode (op : Byte) : Bool :=
  op.toNat / 16 == 15 && escapeColumns.contains (op.toNat % 16)

/-- Well-formed instructions: all fields well formed; a RES or ESC constructor carries such an
opcode byte. -/
def Instr.wellFormed : Instr → Bool
  | .movb src des => src.wellFormed && des.wellFormed
  | .sftb src des => src.wellFormed && des.wellFormed
  | .movh src des => src.wellFormed && des.wellFormed
  | .sfth src des => src.wellFormed && des.wellFormed
  | .movw src des => src.wellFormed && des.wellFormed
  | .sftw src des => src.wellFormed && des.wellFormed
  | .movr src des => src.wellFormed && des.wellFormed
  | .cvbr src des => src.wellFormed && des.wellFormed
  | .movl src des => src.wellFormed && des.wellFormed
  | .nop => true
  | .bg src => src.wellFormed
  | .negb src des => src.wellFormed && des.wellFormed
  | .sfab src des => src.wellFormed && des.wellFormed
  | .negh src des => src.wellFormed && des.wellFormed
  | .sfah src des => src.wellFormed && des.wellFormed
  | .negw src des => src.wellFormed && des.wellFormed
  | .sfaw src des => src.wellFormed && des.wellFormed
  | .negr src des => src.wellFormed && des.wellFormed
  | .cvhr src des => src.wellFormed && des.wellFormed
  | .negl src des => src.wellFormed && des.wellFormed
  | .clc => true
  | .rep src => src.wellFormed
  | .ble src => src.wellFormed
  | .sbrb src des => src.wellFormed && des.wellFormed
  | .rotb src des => src.wellFormed && des.wellFormed
  | .sbrh src des => src.wellFormed && des.wellFormed
  | .roth src des => src.wellFormed && des.wellFormed
  | .sbrw src des => src.wellFormed && des.wellFormed
  | .rotw src des => src.wellFormed && des.wellFormed
  | .sbrr src des => src.wellFormed && des.wellFormed
  | .sbrl src des => src.wellFormed && des.wellFormed
  | .stc => true
  | .repz src => src.wellFormed
  | .bgu src => src.wellFormed
  | .cmpb src des => src.wellFormed && des.wellFormed
  | .ffob src des => src.wellFormed && des.wellFormed
  | .cmph src des => src.wellFormed && des.wellFormed
  | .ffoh src des => src.wellFormed && des.wellFormed
  | .cmpw src des => src.wellFormed && des.wellFormed
  | .ffow src des => src.wellFormed && des.wellFormed
  | .cmpr src des => src.wellFormed && des.wellFormed
  | .cvlr src des => src.wellFormed && des.wellFormed
  | .cmpl src des => src.wellFormed && des.wellFormed
  | .cmc => true
  | .repnz src => src.wellFormed
  | .bleu src => src.wellFormed
  | .addb src des => src.wellFormed && des.wellFormed
  | .andb src des => src.wellFormed && des.wellFormed
  | .addh src des => src.wellFormed && des.wellFormed
  | .andh src des => src.wellFormed && des.wellFormed
  | .addw src des => src.wellFormed && des.wellFormed
  | .andw src des => src.wellFormed && des.wellFormed
  | .addr src des => src.wellFormed && des.wellFormed
  | .cvbl src des => src.wellFormed && des.wellFormed
  | .addl src des => src.wellFormed && des.wellFormed
  | .eron => true
  | .trap src => src.wellFormed
  | .bge src => src.wellFormed
  | .adcb src des => src.wellFormed && des.wellFormed
  | .orb src des => src.wellFormed && des.wellFormed
  | .adch src des => src.wellFormed && des.wellFormed
  | .orh src des => src.wellFormed && des.wellFormed
  | .adcw src des => src.wellFormed && des.wellFormed
  | .orw src des => src.wellFormed && des.wellFormed
  | .sqtr src des => src.wellFormed && des.wellFormed
  | .cvhl src des => src.wellFormed && des.wellFormed
  | .sqtl src des => src.wellFormed && des.wellFormed
  | .erof => true
  | .bl src => src.wellFormed
  | .subb src des => src.wellFormed && des.wellFormed
  | .xorb src des => src.wellFormed && des.wellFormed
  | .subh src des => src.wellFormed && des.wellFormed
  | .xorh src des => src.wellFormed && des.wellFormed
  | .subw src des => src.wellFormed && des.wellFormed
  | .xorw src des => src.wellFormed && des.wellFormed
  | .subr src des => src.wellFormed && des.wellFormed
  | .cvwl src des => src.wellFormed && des.wellFormed
  | .subl src des => src.wellFormed && des.wellFormed
  | .bkpt => true
  | .bgeu src => src.wellFormed
  | .sbbb src des => src.wellFormed && des.wellFormed
  | .notb src des => src.wellFormed && des.wellFormed
  | .sbbh src des => src.wellFormed && des.wellFormed
  | .noth src des => src.wellFormed && des.wellFormed
  | .sbbw src des => src.wellFormed && des.wellFormed
  | .notw src des => src.wellFormed && des.wellFormed
  | .sgnr src des => src.wellFormed && des.wellFormed
  | .cvrl src des => src.wellFormed && des.wellFormed
  | .sgnl src des => src.wellFormed && des.wellFormed
  | .rset => true
  | .blu src => src.wellFormed
  | .mulb src des => src.wellFormed && des.wellFormed
  | .adcd src des => src.wellFormed && des.wellFormed
  | .mulh src des => src.wellFormed && des.wellFormed
  | .mulw src des => src.wellFormed && des.wellFormed
  | .ldpr src des => src.wellFormed && des.wellFormed
  | .mulr src des => src.wellFormed && des.wellFormed
  | .cvbw src des => src.wellFormed && des.wellFormed
  | .mull src des => src.wellFormed && des.wellFormed
  | .ei => true
  | .bne src => src.wellFormed
  | .dvrb src des => src.wellFormed && des.wellFormed
  | .sbbd src des => src.wellFormed && des.wellFormed
  | .dvrh src des => src.wellFormed && des.wellFormed
  | .dvrw src des => src.wellFormed && des.wellFormed
  | .stpr src des => src.wellFormed && des.wellFormed
  | .dvrr src des => src.wellFormed && des.wellFormed
  | .cvhw src des => src.wellFormed && des.wellFormed
  | .dvrl src des => src.wellFormed && des.wellFormed
  | .di => true
  | .be src => src.wellFormed
  | .remb src des => src.wellFormed && des.wellFormed
  | .remh src des => src.wellFormed && des.wellFormed
  | .remw src des => src.wellFormed && des.wellFormed
  | .lcnt src des => src.wellFormed && des.wellFormed
  | .remr src des => src.wellFormed && des.wellFormed
  | .cvwb src des => src.wellFormed && des.wellFormed
  | .reml src des => src.wellFormed && des.wellFormed
  | .wait => true
  | .bnv src => src.wellFormed
  | .divb src des => src.wellFormed && des.wellFormed
  | .divh src des => src.wellFormed && des.wellFormed
  | .divw src des => src.wellFormed && des.wellFormed
  | .lptr src des => src.wellFormed && des.wellFormed
  | .divr src des => src.wellFormed && des.wellFormed
  | .cvwh src des => src.wellFormed && des.wellFormed
  | .divl src des => src.wellFormed && des.wellFormed
  | .bv src => src.wellFormed
  | .bitb src des => src.wellFormed && des.wellFormed
  | .bith src des => src.wellFormed && des.wellFormed
  | .bitw src des => src.wellFormed && des.wellFormed
  | .bcnt src des => src.wellFormed && des.wellFormed
  | .reti => true
  | .call src => src.wellFormed
  | .bptr src des => src.wellFormed && des.wellFormed
  | .rett => true
  | .jmp src => src.wellFormed
  | .mova src des => src.wellFormed && des.wellFormed
  | .ret => true
  | .retp src => src.wellFormed
  | .res op => isReservedOpcode op
  | .esc op => isEscapeOpcode op

end Sys2Proof
end

