-- ==== Sys2Proof/Decode.lean ====
section
/-! DEFINITION. The encoding of instructions: the opcode map (30 R94), the access kinds of the fields
(30 R95), the decoder of 30 R123, total on any bytes, and the encoder. -/

namespace Sys2Proof

/-- What an instruction does with a field's operand (30 R95). -/
inductive Access where
  | r | w | rw | a | v | reg
  deriving DecidableEq, Repr

/-- An address field with its access kind (30 R95). -/
structure Field where
  type : OpType
  access : Access
  mode : Mode type
  deriving DecidableEq, Repr

/-- How many address fields follow an opcode, and of which types (30 R94, R95). -/
inductive Shape where
  | op0 (i : Instr)
  | op1 (t : OpType) (mk : Mode t → Instr)
  | op2 (t u : OpType) (mk : Mode t → Mode u → Instr)

/-- Why the decoder answers no instruction: there is no opcode byte, or the bytes end inside an
address field, which is then `truncated` in the instruction carried along. -/
inductive DecodeError where
  | noOpcode
  | truncatedField (i : Instr)
  deriving DecidableEq, Repr

/-! ### Bytes and little-endian values (20 R62, R63) -/

/-- The value of bytes stored low-order first. -/
def leValue : List Byte → Nat
  | [] => 0
  | b :: bs => b.toNat + 256 * leValue bs

/-- The n low-order bytes of a value, low-order first. -/
def leBytes : Nat → Nat → List Byte
  | 0, _ => []
  | n + 1, v => BitVec.ofNat 8 v :: leBytes n (v / 256)

/-- The register number in bits 3..0 of a mode byte (30 R98). -/
def regOfMode (b : Byte) : Reg :=
  ⟨b.toNat % 16, Nat.mod_lt _ (by decide)⟩

/-- The mode byte with MD in bits 7..4 and a register number in bits 3..0 (30 R98). -/
def modeByte (md : Nat) (r : Reg) : Byte :=
  BitVec.ofNat 8 (md * 16 + r.val)

/-! ### Decoding -/

/-- Read the n bytes after mode byte b as a little-endian value, or say that they are missing. -/
def withExtension {t : OpType} (n : Nat) (b : Byte) (bs : List Byte) (mk : Nat → Mode t) :
    Mode t × List Byte :=
  if bs.length < n then (.truncated (some b), []) else (mk (leValue (bs.take n)), bs.drop n)

/-- The special modes, MD = 15 (30 R98). -/
def decodeSpecial {t : OpType} (b : Byte) (bs : List Byte) : Mode t × List Byte :=
  match b.toNat % 16 with
  | 0 => withExtension 1 b bs (fun v => .byteOffPc (BitVec.ofNat 8 v))
  | 1 => withExtension 2 b bs (fun v => .halfOffPc (BitVec.ofNat 16 v))
  | 2 => withExtension 4 b bs (fun v => .wordOffPc (BitVec.ofNat 32 v))
  | 3 => withExtension 4 b bs (fun v => .wordOffPcInd (BitVec.ofNat 32 v))
  | 4 => withExtension 1 b bs (fun v => .byteOffSp (BitVec.ofNat 8 v))
  | 5 => withExtension 2 b bs (fun v => .halfOffSp (BitVec.ofNat 16 v))
  | 6 => withExtension 4 b bs (fun v => .wordOffSp (BitVec.ofNat 32 v))
  | 7 => withExtension 4 b bs (fun v => .wordOffSpInd (BitVec.ofNat 32 v))
  | 8 => withExtension 1 b bs (fun v => .byteDirect (BitVec.ofNat 8 v))
  | 9 => withExtension 2 b bs (fun v => .halfDirect (BitVec.ofNat 16 v))
  | 10 => withExtension 4 b bs (fun v => .wordDirect (BitVec.ofNat 32 v))
  | 11 => withExtension 4 b bs (fun v => .wordIndirect (BitVec.ofNat 32 v))
  | 12 => (.stk, bs)
  | 13 => withExtension (t.bits / 8) b bs (fun v => .immediate (BitVec.ofNat t.bits v))
  | _ => (.reserved b, bs)

/-- Decode one address field of type t from the bytes at its mode byte; the second component is
what follows the field (30 R98, R115). -/
def decodeField (t : OpType) : List Byte → Mode t × List Byte
  | [] => (.truncated none, [])
  | b :: bs =>
    match b.toNat / 16 with
    | 0 => (.literal (b.setWidth 6), bs)
    | 1 => (.literal (b.setWidth 6), bs)
    | 2 => (.literal (b.setWidth 6), bs)
    | 3 => (.literal (b.setWidth 6), bs)
    | 4 => (.regIndirect (regOfMode b), bs)
    | 5 => (.autoskip (regOfMode b), bs)
    | 6 => (.autoinc (regOfMode b), bs)
    | 7 => (.autoincInd (regOfMode b), bs)
    | 8 => withExtension 1 b bs (fun v => .byteOffReg (regOfMode b) (BitVec.ofNat 8 v))
    | 9 => withExtension 2 b bs (fun v => .halfOffReg (regOfMode b) (BitVec.ofNat 16 v))
    | 10 => withExtension 4 b bs (fun v => .wordOffReg (regOfMode b) (BitVec.ofNat 32 v))
    | 11 => withExtension 4 b bs (fun v => .wordOffRegInd (regOfMode b) (BitVec.ofNat 32 v))
    | 12 => (.register (regOfMode b), bs)
    | 13 => (.autodec (regOfMode b), bs)
    | 14 => (.reserved b, bs)
    | _ => decodeSpecial b bs

/-- The opcode map (30 R94): the shape of the instruction each opcode byte begins. -/
def opcodeShape (op : Byte) : Shape :=
  match op.toNat with
  | 0x00 => .op2 .byte .byte .movb
  | 0x01 => .op2 .byte .byte .sftb
  | 0x02 => .op2 .half .half .movh
  | 0x03 => .op2 .byte .half .sfth
  | 0x04 => .op2 .word .word .movw
  | 0x05 => .op2 .byte .word .sftw
  | 0x08 => .op2 .real .real .movr
  | 0x09 => .op2 .byte .real .cvbr
  | 0x0A => .op2 .long .long .movl
  | 0x0B => .op0 .nop
  | 0x0F => .op1 .address .bg
  | 0x10 => .op2 .byte .byte .negb
  | 0x11 => .op2 .byte .byte .sfab
  | 0x12 => .op2 .half .half .negh
  | 0x13 => .op2 .byte .half .sfah
  | 0x14 => .op2 .word .word .negw
  | 0x15 => .op2 .byte .word .sfaw
  | 0x18 => .op2 .real .real .negr
  | 0x19 => .op2 .half .real .cvhr
  | 0x1A => .op2 .long .long .negl
  | 0x1B => .op0 .clc
  | 0x1E => .op1 .address .rep
  | 0x1F => .op1 .address .ble
  | 0x20 => .op2 .byte .byte .sbrb
  | 0x21 => .op2 .byte .byte .rotb
  | 0x22 => .op2 .half .half .sbrh
  | 0x23 => .op2 .byte .half .roth
  | 0x24 => .op2 .word .word .sbrw
  | 0x25 => .op2 .byte .word .rotw
  | 0x28 => .op2 .real .real .sbrr
  | 0x2A => .op2 .long .long .sbrl
  | 0x2B => .op0 .stc
  | 0x2E => .op1 .address .repz
  | 0x2F => .op1 .address .bgu
  | 0x30 => .op2 .byte .byte .cmpb
  | 0x31 => .op2 .byte .byte .ffob
  | 0x32 => .op2 .half .half .cmph
  | 0x33 => .op2 .half .byte .ffoh
  | 0x34 => .op2 .word .word .cmpw
  | 0x35 => .op2 .word .byte .ffow
  | 0x38 => .op2 .real .real .cmpr
  | 0x39 => .op2 .long .real .cvlr
  | 0x3A => .op2 .long .long .cmpl
  | 0x3B => .op0 .cmc
  | 0x3E => .op1 .address .repnz
  | 0x3F => .op1 .address .bleu
  | 0x40 => .op2 .byte .byte .addb
  | 0x41 => .op2 .byte .byte .andb
  | 0x42 => .op2 .half .half .addh
  | 0x43 => .op2 .half .half .andh
  | 0x44 => .op2 .word .word .addw
  | 0x45 => .op2 .word .word .andw
  | 0x48 => .op2 .real .real .addr
  | 0x49 => .op2 .byte .long .cvbl
  | 0x4A => .op2 .long .long .addl
  | 0x4B => .op0 .eron
  | 0x4E => .op1 .byte .trap
  | 0x4F => .op1 .address .bge
  | 0x50 => .op2 .byte .byte .adcb
  | 0x51 => .op2 .byte .byte .orb
  | 0x52 => .op2 .half .half .adch
  | 0x53 => .op2 .half .half .orh
  | 0x54 => .op2 .word .word .adcw
  | 0x55 => .op2 .word .word .orw
  | 0x58 => .op2 .real .real .sqtr
  | 0x59 => .op2 .half .long .cvhl
  | 0x5A => .op2 .long .long .sqtl
  | 0x5B => .op0 .erof
  | 0x5F => .op1 .address .bl
  | 0x60 => .op2 .byte .byte .subb
  | 0x61 => .op2 .byte .byte .xorb
  | 0x62 => .op2 .half .half .subh
  | 0x63 => .op2 .half .half .xorh
  | 0x64 => .op2 .word .word .subw
  | 0x65 => .op2 .word .word .xorw
  | 0x68 => .op2 .real .real .subr
  | 0x69 => .op2 .word .long .cvwl
  | 0x6A => .op2 .long .long .subl
  | 0x6B => .op0 .bkpt
  | 0x6F => .op1 .address .bgeu
  | 0x70 => .op2 .byte .byte .sbbb
  | 0x71 => .op2 .byte .byte .notb
  | 0x72 => .op2 .half .half .sbbh
  | 0x73 => .op2 .half .half .noth
  | 0x74 => .op2 .word .word .sbbw
  | 0x75 => .op2 .word .word .notw
  | 0x78 => .op2 .real .real .sgnr
  | 0x79 => .op2 .real .long .cvrl
  | 0x7A => .op2 .long .long .sgnl
  | 0x7B => .op0 .rset
  | 0x7F => .op1 .address .blu
  | 0x80 => .op2 .byte .byte .mulb
  | 0x81 => .op2 .byte .byte .adcd
  | 0x82 => .op2 .half .half .mulh
  | 0x84 => .op2 .word .word .mulw
  | 0x85 => .op2 .word .byte .ldpr
  | 0x88 => .op2 .real .real .mulr
  | 0x89 => .op2 .byte .word .cvbw
  | 0x8A => .op2 .long .long .mull
  | 0x8B => .op0 .ei
  | 0x8F => .op1 .address .bne
  | 0x90 => .op2 .byte .byte .dvrb
  | 0x91 => .op2 .byte .byte .sbbd
  | 0x92 => .op2 .half .half .dvrh
  | 0x94 => .op2 .word .word .dvrw
  | 0x95 => .op2 .byte .word .stpr
  | 0x98 => .op2 .real .real .dvrr
  | 0x99 => .op2 .half .word .cvhw
  | 0x9A => .op2 .long .long .dvrl
  | 0x9B => .op0 .di
  | 0x9F => .op1 .address .be
  | 0xA0 => .op2 .byte .byte .remb
  | 0xA2 => .op2 .half .half .remh
  | 0xA4 => .op2 .word .word .remw
  | 0xA5 => .op2 .word .byte .lcnt
  | 0xA8 => .op2 .real .real .remr
  | 0xA9 => .op2 .word .byte .cvwb
  | 0xAA => .op2 .long .long .reml
  | 0xAB => .op0 .wait
  | 0xAF => .op1 .address .bnv
  | 0xB0 => .op2 .byte .byte .divb
  | 0xB2 => .op2 .half .half .divh
  | 0xB4 => .op2 .word .word .divw
  | 0xB5 => .op2 .word .byte .lptr
  | 0xB8 => .op2 .real .real .divr
  | 0xB9 => .op2 .word .half .cvwh
  | 0xBA => .op2 .long .long .divl
  | 0xBF => .op1 .address .bv
  | 0xC0 => .op2 .byte .byte .bitb
  | 0xC2 => .op2 .half .half .bith
  | 0xC4 => .op2 .word .word .bitw
  | 0xC5 => .op2 .word .word .bcnt
  | 0xCB => .op0 .reti
  | 0xCF => .op1 .address .call
  | 0xD5 => .op2 .word .word .bptr
  | 0xDB => .op0 .rett
  | 0xDF => .op1 .address .jmp
  | 0xE5 => .op2 .address .word .mova
  | 0xEB => .op0 .ret
  | 0xEF => .op1 .word .retp
  | _ => .op0 (if isEscapeOpcode op then .esc op else .res op)

/-- Whether a field was cut off by the end of the bytes. -/
def Mode.isTruncated {t : OpType} : Mode t → Bool
  | .truncated _ => true
  | _ => false

/-- The decoder (30 R123): the instruction at the head of the bytes and the bytes after it. It is
total; where the bytes end too early it says so by name. -/
def decode : List Byte → Except DecodeError (Instr × List Byte)
  | [] => .error .noOpcode
  | op :: bs =>
    match opcodeShape op with
    | .op0 i => .ok (i, bs)
    | .op1 t mk =>
      let (m, rest) := decodeField t bs
      if m.isTruncated then .error (.truncatedField (mk m)) else .ok (mk m, rest)
    | .op2 t u mk =>
      let (m, rest) := decodeField t bs
      let (n, rest') := decodeField u rest
      if m.isTruncated || n.isTruncated then .error (.truncatedField (mk m n))
      else .ok (mk m n, rest')

/-! ### Encoding -/

/-- The bytes of an address field (30 R98, R115). -/
def encodeField {t : OpType} : Mode t → List Byte
  | .literal n => [n.setWidth 8]
  | .regIndirect r => [modeByte 4 r]
  | .autoskip r => [modeByte 5 r]
  | .autoinc r => [modeByte 6 r]
  | .autoincInd r => [modeByte 7 r]
  | .byteOffReg r d => modeByte 8 r :: leBytes 1 d.toNat
  | .halfOffReg r d => modeByte 9 r :: leBytes 2 d.toNat
  | .wordOffReg r d => modeByte 10 r :: leBytes 4 d.toNat
  | .wordOffRegInd r d => modeByte 11 r :: leBytes 4 d.toNat
  | .register r => [modeByte 12 r]
  | .autodec r => [modeByte 13 r]
  | .byteOffPc d => 0xF0#8 :: leBytes 1 d.toNat
  | .halfOffPc d => 0xF1#8 :: leBytes 2 d.toNat
  | .wordOffPc d => 0xF2#8 :: leBytes 4 d.toNat
  | .wordOffPcInd d => 0xF3#8 :: leBytes 4 d.toNat
  | .byteOffSp d => 0xF4#8 :: leBytes 1 d.toNat
  | .halfOffSp d => 0xF5#8 :: leBytes 2 d.toNat
  | .wordOffSp d => 0xF6#8 :: leBytes 4 d.toNat
  | .wordOffSpInd d => 0xF7#8 :: leBytes 4 d.toNat
  | .byteDirect a => 0xF8#8 :: leBytes 1 a.toNat
  | .halfDirect a => 0xF9#8 :: leBytes 2 a.toNat
  | .wordDirect a => 0xFA#8 :: leBytes 4 a.toNat
  | .wordIndirect a => 0xFB#8 :: leBytes 4 a.toNat
  | .stk => [0xFC#8]
  | .immediate v => 0xFD#8 :: leBytes (t.bits / 8) v.toNat
  | .reserved b => [b]
  | .truncated b => b.toList

/-- The length of a field in bytes, its mode byte included (30 R115). -/
def Mode.size {t : OpType} : Mode t → Nat
  | .byteOffReg _ _ | .byteOffPc _ | .byteOffSp _ | .byteDirect _ => 2
  | .halfOffReg _ _ | .halfOffPc _ | .halfOffSp _ | .halfDirect _ => 3
  | .wordOffReg _ _ | .wordOffRegInd _ _ | .wordOffPc _ | .wordOffPcInd _ | .wordOffSp _
  | .wordOffSpInd _ | .wordDirect _ | .wordIndirect _ => 5
  | .immediate _ => 1 + t.bits / 8
  | .truncated b => b.toList.length
  | _ => 1

/-- An instruction's opcode byte (30 R94) and its address fields with their access kinds
(30 R95). -/
def Instr.layout : Instr → Byte × List Field
  | .movb src des => (0x00#8, [⟨.byte, .r, src⟩, ⟨.byte, .w, des⟩])
  | .sftb src des => (0x01#8, [⟨.byte, .r, src⟩, ⟨.byte, .rw, des⟩])
  | .movh src des => (0x02#8, [⟨.half, .r, src⟩, ⟨.half, .w, des⟩])
  | .sfth src des => (0x03#8, [⟨.byte, .r, src⟩, ⟨.half, .rw, des⟩])
  | .movw src des => (0x04#8, [⟨.word, .r, src⟩, ⟨.word, .w, des⟩])
  | .sftw src des => (0x05#8, [⟨.byte, .r, src⟩, ⟨.word, .rw, des⟩])
  | .movr src des => (0x08#8, [⟨.real, .r, src⟩, ⟨.real, .w, des⟩])
  | .cvbr src des => (0x09#8, [⟨.byte, .r, src⟩, ⟨.real, .w, des⟩])
  | .movl src des => (0x0A#8, [⟨.long, .r, src⟩, ⟨.long, .w, des⟩])
  | .nop => (0x0B#8, [])
  | .bg src => (0x0F#8, [⟨.address, .a, src⟩])
  | .negb src des => (0x10#8, [⟨.byte, .r, src⟩, ⟨.byte, .w, des⟩])
  | .sfab src des => (0x11#8, [⟨.byte, .r, src⟩, ⟨.byte, .rw, des⟩])
  | .negh src des => (0x12#8, [⟨.half, .r, src⟩, ⟨.half, .w, des⟩])
  | .sfah src des => (0x13#8, [⟨.byte, .r, src⟩, ⟨.half, .rw, des⟩])
  | .negw src des => (0x14#8, [⟨.word, .r, src⟩, ⟨.word, .w, des⟩])
  | .sfaw src des => (0x15#8, [⟨.byte, .r, src⟩, ⟨.word, .rw, des⟩])
  | .negr src des => (0x18#8, [⟨.real, .r, src⟩, ⟨.real, .w, des⟩])
  | .cvhr src des => (0x19#8, [⟨.half, .r, src⟩, ⟨.real, .w, des⟩])
  | .negl src des => (0x1A#8, [⟨.long, .r, src⟩, ⟨.long, .w, des⟩])
  | .clc => (0x1B#8, [])
  | .rep src => (0x1E#8, [⟨.address, .reg, src⟩])
  | .ble src => (0x1F#8, [⟨.address, .a, src⟩])
  | .sbrb src des => (0x20#8, [⟨.byte, .r, src⟩, ⟨.byte, .rw, des⟩])
  | .rotb src des => (0x21#8, [⟨.byte, .r, src⟩, ⟨.byte, .rw, des⟩])
  | .sbrh src des => (0x22#8, [⟨.half, .r, src⟩, ⟨.half, .rw, des⟩])
  | .roth src des => (0x23#8, [⟨.byte, .r, src⟩, ⟨.half, .rw, des⟩])
  | .sbrw src des => (0x24#8, [⟨.word, .r, src⟩, ⟨.word, .rw, des⟩])
  | .rotw src des => (0x25#8, [⟨.byte, .r, src⟩, ⟨.word, .rw, des⟩])
  | .sbrr src des => (0x28#8, [⟨.real, .r, src⟩, ⟨.real, .rw, des⟩])
  | .sbrl src des => (0x2A#8, [⟨.long, .r, src⟩, ⟨.long, .rw, des⟩])
  | .stc => (0x2B#8, [])
  | .repz src => (0x2E#8, [⟨.address, .reg, src⟩])
  | .bgu src => (0x2F#8, [⟨.address, .a, src⟩])
  | .cmpb src des => (0x30#8, [⟨.byte, .r, src⟩, ⟨.byte, .r, des⟩])
  | .ffob src des => (0x31#8, [⟨.byte, .r, src⟩, ⟨.byte, .w, des⟩])
  | .cmph src des => (0x32#8, [⟨.half, .r, src⟩, ⟨.half, .r, des⟩])
  | .ffoh src des => (0x33#8, [⟨.half, .r, src⟩, ⟨.byte, .w, des⟩])
  | .cmpw src des => (0x34#8, [⟨.word, .r, src⟩, ⟨.word, .r, des⟩])
  | .ffow src des => (0x35#8, [⟨.word, .r, src⟩, ⟨.byte, .w, des⟩])
  | .cmpr src des => (0x38#8, [⟨.real, .r, src⟩, ⟨.real, .r, des⟩])
  | .cvlr src des => (0x39#8, [⟨.long, .r, src⟩, ⟨.real, .w, des⟩])
  | .cmpl src des => (0x3A#8, [⟨.long, .r, src⟩, ⟨.long, .r, des⟩])
  | .cmc => (0x3B#8, [])
  | .repnz src => (0x3E#8, [⟨.address, .reg, src⟩])
  | .bleu src => (0x3F#8, [⟨.address, .a, src⟩])
  | .addb src des => (0x40#8, [⟨.byte, .r, src⟩, ⟨.byte, .rw, des⟩])
  | .andb src des => (0x41#8, [⟨.byte, .r, src⟩, ⟨.byte, .rw, des⟩])
  | .addh src des => (0x42#8, [⟨.half, .r, src⟩, ⟨.half, .rw, des⟩])
  | .andh src des => (0x43#8, [⟨.half, .r, src⟩, ⟨.half, .rw, des⟩])
  | .addw src des => (0x44#8, [⟨.word, .r, src⟩, ⟨.word, .rw, des⟩])
  | .andw src des => (0x45#8, [⟨.word, .r, src⟩, ⟨.word, .rw, des⟩])
  | .addr src des => (0x48#8, [⟨.real, .r, src⟩, ⟨.real, .rw, des⟩])
  | .cvbl src des => (0x49#8, [⟨.byte, .r, src⟩, ⟨.long, .w, des⟩])
  | .addl src des => (0x4A#8, [⟨.long, .r, src⟩, ⟨.long, .rw, des⟩])
  | .eron => (0x4B#8, [])
  | .trap src => (0x4E#8, [⟨.byte, .r, src⟩])
  | .bge src => (0x4F#8, [⟨.address, .a, src⟩])
  | .adcb src des => (0x50#8, [⟨.byte, .r, src⟩, ⟨.byte, .rw, des⟩])
  | .orb src des => (0x51#8, [⟨.byte, .r, src⟩, ⟨.byte, .rw, des⟩])
  | .adch src des => (0x52#8, [⟨.half, .r, src⟩, ⟨.half, .rw, des⟩])
  | .orh src des => (0x53#8, [⟨.half, .r, src⟩, ⟨.half, .rw, des⟩])
  | .adcw src des => (0x54#8, [⟨.word, .r, src⟩, ⟨.word, .rw, des⟩])
  | .orw src des => (0x55#8, [⟨.word, .r, src⟩, ⟨.word, .rw, des⟩])
  | .sqtr src des => (0x58#8, [⟨.real, .r, src⟩, ⟨.real, .w, des⟩])
  | .cvhl src des => (0x59#8, [⟨.half, .r, src⟩, ⟨.long, .w, des⟩])
  | .sqtl src des => (0x5A#8, [⟨.long, .r, src⟩, ⟨.long, .w, des⟩])
  | .erof => (0x5B#8, [])
  | .bl src => (0x5F#8, [⟨.address, .a, src⟩])
  | .subb src des => (0x60#8, [⟨.byte, .r, src⟩, ⟨.byte, .rw, des⟩])
  | .xorb src des => (0x61#8, [⟨.byte, .r, src⟩, ⟨.byte, .rw, des⟩])
  | .subh src des => (0x62#8, [⟨.half, .r, src⟩, ⟨.half, .rw, des⟩])
  | .xorh src des => (0x63#8, [⟨.half, .r, src⟩, ⟨.half, .rw, des⟩])
  | .subw src des => (0x64#8, [⟨.word, .r, src⟩, ⟨.word, .rw, des⟩])
  | .xorw src des => (0x65#8, [⟨.word, .r, src⟩, ⟨.word, .rw, des⟩])
  | .subr src des => (0x68#8, [⟨.real, .r, src⟩, ⟨.real, .rw, des⟩])
  | .cvwl src des => (0x69#8, [⟨.word, .r, src⟩, ⟨.long, .w, des⟩])
  | .subl src des => (0x6A#8, [⟨.long, .r, src⟩, ⟨.long, .rw, des⟩])
  | .bkpt => (0x6B#8, [])
  | .bgeu src => (0x6F#8, [⟨.address, .a, src⟩])
  | .sbbb src des => (0x70#8, [⟨.byte, .r, src⟩, ⟨.byte, .rw, des⟩])
  | .notb src des => (0x71#8, [⟨.byte, .r, src⟩, ⟨.byte, .w, des⟩])
  | .sbbh src des => (0x72#8, [⟨.half, .r, src⟩, ⟨.half, .rw, des⟩])
  | .noth src des => (0x73#8, [⟨.half, .r, src⟩, ⟨.half, .w, des⟩])
  | .sbbw src des => (0x74#8, [⟨.word, .r, src⟩, ⟨.word, .rw, des⟩])
  | .notw src des => (0x75#8, [⟨.word, .r, src⟩, ⟨.word, .w, des⟩])
  | .sgnr src des => (0x78#8, [⟨.real, .r, src⟩, ⟨.real, .rw, des⟩])
  | .cvrl src des => (0x79#8, [⟨.real, .r, src⟩, ⟨.long, .w, des⟩])
  | .sgnl src des => (0x7A#8, [⟨.long, .r, src⟩, ⟨.long, .rw, des⟩])
  | .rset => (0x7B#8, [])
  | .blu src => (0x7F#8, [⟨.address, .a, src⟩])
  | .mulb src des => (0x80#8, [⟨.byte, .r, src⟩, ⟨.byte, .rw, des⟩])
  | .adcd src des => (0x81#8, [⟨.byte, .r, src⟩, ⟨.byte, .rw, des⟩])
  | .mulh src des => (0x82#8, [⟨.half, .r, src⟩, ⟨.half, .rw, des⟩])
  | .mulw src des => (0x84#8, [⟨.word, .r, src⟩, ⟨.word, .rw, des⟩])
  | .ldpr src des => (0x85#8, [⟨.word, .r, src⟩, ⟨.byte, .v, des⟩])
  | .mulr src des => (0x88#8, [⟨.real, .r, src⟩, ⟨.real, .rw, des⟩])
  | .cvbw src des => (0x89#8, [⟨.byte, .r, src⟩, ⟨.word, .w, des⟩])
  | .mull src des => (0x8A#8, [⟨.long, .r, src⟩, ⟨.long, .rw, des⟩])
  | .ei => (0x8B#8, [])
  | .bne src => (0x8F#8, [⟨.address, .a, src⟩])
  | .dvrb src des => (0x90#8, [⟨.byte, .r, src⟩, ⟨.byte, .rw, des⟩])
  | .sbbd src des => (0x91#8, [⟨.byte, .r, src⟩, ⟨.byte, .rw, des⟩])
  | .dvrh src des => (0x92#8, [⟨.half, .r, src⟩, ⟨.half, .rw, des⟩])
  | .dvrw src des => (0x94#8, [⟨.word, .r, src⟩, ⟨.word, .rw, des⟩])
  | .stpr src des => (0x95#8, [⟨.byte, .r, src⟩, ⟨.word, .w, des⟩])
  | .dvrr src des => (0x98#8, [⟨.real, .r, src⟩, ⟨.real, .rw, des⟩])
  | .cvhw src des => (0x99#8, [⟨.half, .r, src⟩, ⟨.word, .w, des⟩])
  | .dvrl src des => (0x9A#8, [⟨.long, .r, src⟩, ⟨.long, .rw, des⟩])
  | .di => (0x9B#8, [])
  | .be src => (0x9F#8, [⟨.address, .a, src⟩])
  | .remb src des => (0xA0#8, [⟨.byte, .r, src⟩, ⟨.byte, .rw, des⟩])
  | .remh src des => (0xA2#8, [⟨.half, .r, src⟩, ⟨.half, .rw, des⟩])
  | .remw src des => (0xA4#8, [⟨.word, .r, src⟩, ⟨.word, .rw, des⟩])
  | .lcnt src des => (0xA5#8, [⟨.word, .r, src⟩, ⟨.byte, .v, des⟩])
  | .remr src des => (0xA8#8, [⟨.real, .r, src⟩, ⟨.real, .rw, des⟩])
  | .cvwb src des => (0xA9#8, [⟨.word, .r, src⟩, ⟨.byte, .w, des⟩])
  | .reml src des => (0xAA#8, [⟨.long, .r, src⟩, ⟨.long, .rw, des⟩])
  | .wait => (0xAB#8, [])
  | .bnv src => (0xAF#8, [⟨.address, .a, src⟩])
  | .divb src des => (0xB0#8, [⟨.byte, .r, src⟩, ⟨.byte, .rw, des⟩])
  | .divh src des => (0xB2#8, [⟨.half, .r, src⟩, ⟨.half, .rw, des⟩])
  | .divw src des => (0xB4#8, [⟨.word, .r, src⟩, ⟨.word, .rw, des⟩])
  | .lptr src des => (0xB5#8, [⟨.word, .r, src⟩, ⟨.byte, .v, des⟩])
  | .divr src des => (0xB8#8, [⟨.real, .r, src⟩, ⟨.real, .rw, des⟩])
  | .cvwh src des => (0xB9#8, [⟨.word, .r, src⟩, ⟨.half, .w, des⟩])
  | .divl src des => (0xBA#8, [⟨.long, .r, src⟩, ⟨.long, .rw, des⟩])
  | .bv src => (0xBF#8, [⟨.address, .a, src⟩])
  | .bitb src des => (0xC0#8, [⟨.byte, .r, src⟩, ⟨.byte, .r, des⟩])
  | .bith src des => (0xC2#8, [⟨.half, .r, src⟩, ⟨.half, .r, des⟩])
  | .bitw src des => (0xC4#8, [⟨.word, .r, src⟩, ⟨.word, .r, des⟩])
  | .bcnt src des => (0xC5#8, [⟨.word, .r, src⟩, ⟨.word, .v, des⟩])
  | .reti => (0xCB#8, [])
  | .call src => (0xCF#8, [⟨.address, .a, src⟩])
  | .bptr src des => (0xD5#8, [⟨.word, .r, src⟩, ⟨.word, .v, des⟩])
  | .rett => (0xDB#8, [])
  | .jmp src => (0xDF#8, [⟨.address, .a, src⟩])
  | .mova src des => (0xE5#8, [⟨.address, .a, src⟩, ⟨.word, .w, des⟩])
  | .ret => (0xEB#8, [])
  | .retp src => (0xEF#8, [⟨.word, .r, src⟩])
  | .res op => (op, [])
  | .esc op => (op, [])

/-- The address fields of an instruction. -/
def Instr.fields (i : Instr) : List Field := i.layout.2

/-- The bytes of a list of fields, in order. -/
def encodeFields : List Field → List Byte
  | [] => []
  | f :: fs => encodeField f.mode ++ encodeFields fs

/-- The encoder: the opcode byte and then the address fields in order (30 R90). -/
def encode (i : Instr) : List Byte :=
  i.layout.1 :: encodeFields i.layout.2

/-- The length L of an instruction in bytes (30 R92). -/
def Instr.length (i : Instr) : Nat := (encode i).length

/-- More bytes than any instruction has: 1 + 9 + 9, a second 8-byte immediate being an illegal field
that still decodes (30 R92, R114). -/
def maxInstrBytes : Nat := 19

/-- The bytes of a number whose bit 0 is the least significant bit of the first byte. -/
def bytesOfNumber : Nat → Nat → List Byte
  | 0, _ => []
  | n + 1, w => BitVec.ofNat 8 w :: bytesOfNumber n (w / 256)

/-- The instruction the decoder reads where the low nbits bits are those of w and every further bit
is 0. -/
def decodeTableWord (nbits w : Nat) : Option Instr :=
  match decode (bytesOfNumber maxInstrBytes (w % 2 ^ nbits)) with
  | .ok (i, _) => some i
  | .error _ => none

end Sys2Proof
end

