-- ==== Sys2Proof/Machine/FloatArith.lean ====
section
/-! DEFINITION. Floating-point arithmetic on bit patterns, exact and then rounded once (43): the two
formats, the classes of values, FPResult of 43 R248, and each operation with the infinity and zero
cases of 43 R251. Patterns are numbers below 2 to the width of the format. -/

namespace Sys2Proof.Machine

/-- A floating-point format: the widths of its exponent and fraction (43 R240, R241). -/
structure FpFormat where
  expBits : Nat
  fracBits : Nat
  deriving DecidableEq, Repr

/-- The format of an operand type (43 R240, R241). -/
def fpFormat : OpType → FpFormat
  | .real => ⟨8, 23⟩
  | _ => ⟨11, 52⟩

/-- The bias b: 127 or 1023. -/
def FpFormat.bias (f : FpFormat) : Nat := 2 ^ (f.expBits - 1) - 1

/-- The exponent field of all ones. -/
def FpFormat.maxExp (f : FpFormat) : Nat := 2 ^ f.expBits - 1

/-- The sign bit of a pattern. -/
def FpFormat.sign (f : FpFormat) (x : Nat) : Bool := x / 2 ^ (f.expBits + f.fracBits) % 2 == 1

/-- The exponent field of a pattern. -/
def FpFormat.exp (f : FpFormat) (x : Nat) : Nat := x / 2 ^ f.fracBits % 2 ^ f.expBits

/-- The fraction field of a pattern. -/
def FpFormat.frac (f : FpFormat) (x : Nat) : Nat := x % 2 ^ f.fracBits

/-- The pattern of a sign, an exponent field and a fraction field. -/
def FpFormat.pack (f : FpFormat) (s : Bool) (e m : Nat) : Nat :=
  (s.toNat * 2 ^ f.expBits + e) * 2 ^ f.fracBits + m

/-- Not-a-number (43 R240 case 4). -/
def FpFormat.isNan (f : FpFormat) (x : Nat) : Bool := f.exp x == f.maxExp && f.frac x != 0

/-- Infinity (43 R240 case 3). -/
def FpFormat.isInf (f : FpFormat) (x : Nat) : Bool := f.exp x == f.maxExp && f.frac x == 0

/-- Zero of either sign: fzero of 43 R247. -/
def FpFormat.isZero (f : FpFormat) (x : Nat) : Bool := f.exp x == 0 && f.frac x == 0

/-- fneg of 43 R247: the sign bit, but false for minus zero. -/
def FpFormat.isNeg (f : FpFormat) (x : Nat) : Bool := f.sign x && !f.isZero x

/-- The significand of a finite pattern as an integer (43 R240 cases 1 and 2). -/
def FpFormat.mant (f : FpFormat) (x : Nat) : Nat :=
  if f.exp x = 0 then f.frac x else 2 ^ f.fracBits + f.frac x

/-- The power of two by which the significand of a finite pattern is scaled. -/
def FpFormat.scale (f : FpFormat) (x : Nat) : Int :=
  ((max (f.exp x) 1 : Nat) : Int) - f.bias - f.fracBits

/-- The significand scaled to the power e, which must not exceed its own scale. -/
def FpFormat.mantAt (f : FpFormat) (e : Int) (x : Nat) : Nat := f.mant x * 2 ^ (f.scale x - e).toNat

/-- What a floating-point operation gives: a pattern with the flags N, Z, IX, UF and OF, or one of the
two conditions that store nothing (43 R248, R250). -/
inductive FpResult where
  | value (bits : Nat) (neg zero ix uf ovf : Bool)
  | invalid
  | zeroDivide
  deriving DecidableEq, Repr

/-- An infinite result, exact (43 R251). -/
def FpFormat.infinity (f : FpFormat) (s : Bool) : FpResult :=
  .value (f.pack s f.maxExp 0) s false false false false

/-- A zero result, exact (43 R251, R247). -/
def FpFormat.zeroOf (f : FpFormat) (s : Bool) : FpResult :=
  .value (f.pack s 0 0) false true false false false

/-- Whether rounding goes away from zero: the round control (10 R18), the sign, the truncated
significand, and the remainder over the divisor (43 R244). -/
def roundsUp (rc : BitVec 2) (s : Bool) (m rem den : Nat) : Bool :=
  match rc.toNat with
  | 0 => decide (den < 2 * rem) || (decide (2 * rem = den) && m % 2 == 1)
  | 1 => decide (rem ≠ 0) && !s
  | 2 => decide (rem ≠ 0) && s
  | _ => false

/-- The largest E with 2 to the E at most num / den, for positive num and den. -/
def floorLog2 (num den : Nat) : Int :=
  let l : Int := (num.log2 : Int) - den.log2
  if den * 2 ^ l.toNat ≤ num * 2 ^ (-l).toNat then l else l - 1

/-- FPResult of 43 R248 for the exact magnitude num / den times 2 to the e, both positive, drawing an
exponent at count k if the adjusted one falls outside 1 to 2b (93 U15; log 35). -/
def FpFormat.round (f : FpFormat) (rc : BitVec 2) (k : Nat) (s : Bool) (num den : Nat) (e : Int) :
    FpResult :=
  let q := floorLog2 num den
  let shift : Int := f.fracBits - q
  let n := num * 2 ^ shift.toNat
  let d := den * 2 ^ (-shift).toNat
  let m := n / d
  let rem := n % d
  let m1 := if roundsUp rc s m rem d then m + 1 else m
  let carry := m1 == 2 ^ (f.fracBits + 1)
  let m2 := if carry then 2 ^ f.fracBits else m1
  let e2 : Int := if carry then q + e + 1 else q + e
  let ovf := decide ((f.bias : Int) < e2)
  let uf := decide (e2 < 1 - (f.bias : Int))
  let field : Int := if ovf then e2 else if uf then e2 + 2 * f.bias else e2 + f.bias
  let stored := if 1 ≤ field ∧ field ≤ 2 * f.bias then field.toNat
    else (Config.freeExponent k).toNat % 2 ^ f.expBits
  .value (f.pack s stored (m2 - 2 ^ f.fracBits)) s false (decide (rem ≠ 0)) uf ovf

/-- The pattern equal to an integer; zero is plus zero (30 R99, 43 R245, 42 R218 to R222). The formats
hold every 32-bit (Longreal) or 24-bit (Real) integer exactly, so that nothing is rounded. -/
def FpFormat.ofInt (f : FpFormat) (n : Int) : FpResult :=
  if n = 0 then f.zeroOf false else f.round 0 0 (decide (n < 0)) n.natAbs 1 0

/-- The stored pattern of a result; the conditions that store nothing have none. -/
def FpResult.bits : FpResult → Nat
  | .value b _ _ _ _ _ => b
  | .invalid => 0
  | .zeroDivide => 0

/-- The sum of a and b taken with the signs sa and sb: ADD, SUB and SBR (43 R251, R253 to R255). -/
def FpFormat.sum (f : FpFormat) (rc : BitVec 2) (k : Nat) (sa : Bool) (a : Nat) (sb : Bool) (b : Nat) :
    FpResult :=
  if f.isNan a || f.isNan b then .invalid
  else if f.isInf a && f.isInf b then (if sa == sb then f.infinity sa else .invalid)
  else if f.isInf a then f.infinity sa
  else if f.isInf b then f.infinity sb
  else
    let e := min (f.scale a) (f.scale b)
    let ma : Int := if sa then -(f.mantAt e a : Int) else f.mantAt e a
    let mb : Int := if sb then -(f.mantAt e b : Int) else f.mantAt e b
    let total := ma + mb
    if total = 0 then
      f.zeroOf (if f.isZero a && f.isZero b && sa == sb then sa else rc == 2)
    else f.round rc k (decide (total < 0)) total.natAbs 1 e

/-- ADD: src + dsrc (43 R253). -/
def FpFormat.add (f : FpFormat) (rc : BitVec 2) (k src dsrc : Nat) : FpResult :=
  f.sum rc k (f.sign dsrc) dsrc (f.sign src) src

/-- SUB: dsrc - src (43 R254). -/
def FpFormat.sub (f : FpFormat) (rc : BitVec 2) (k src dsrc : Nat) : FpResult :=
  f.sum rc k (f.sign dsrc) dsrc (!f.sign src) src

/-- SBR: src - dsrc (43 R255). -/
def FpFormat.sbr (f : FpFormat) (rc : BitVec 2) (k src dsrc : Nat) : FpResult :=
  f.sum rc k (f.sign src) src (!f.sign dsrc) dsrc

/-- MUL: src * dsrc (43 R256, R251). -/
def FpFormat.mul (f : FpFormat) (rc : BitVec 2) (k src dsrc : Nat) : FpResult :=
  let s := f.sign src != f.sign dsrc
  if f.isNan src || f.isNan dsrc then .invalid
  else if (f.isZero src && f.isInf dsrc) || (f.isInf src && f.isZero dsrc) then .invalid
  else if f.isInf src || f.isInf dsrc then f.infinity s
  else if f.isZero src || f.isZero dsrc then f.zeroOf s
  else f.round rc k s (f.mant src * f.mant dsrc) 1 (f.scale src + f.scale dsrc)

/-- The quotient x / y: DIV and DVR (43 R257, R258, R251). -/
def FpFormat.quotient (f : FpFormat) (rc : BitVec 2) (k x y : Nat) : FpResult :=
  let s := f.sign x != f.sign y
  if f.isNan x || f.isNan y then .invalid
  else if f.isZero x && f.isZero y then .invalid
  else if f.isInf x && f.isInf y then .invalid
  else if f.isZero y then .zeroDivide
  else if f.isInf x then f.infinity s
  else if f.isInf y || f.isZero x then f.zeroOf s
  else f.round rc k s (f.mant x) (f.mant y) (f.scale x - f.scale y)

/-- DIV: dsrc / src (43 R257). -/
def FpFormat.div (f : FpFormat) (rc : BitVec 2) (k src dsrc : Nat) : FpResult :=
  f.quotient rc k dsrc src

/-- DVR: src / dsrc (43 R258). -/
def FpFormat.dvr (f : FpFormat) (rc : BitVec 2) (k src dsrc : Nat) : FpResult :=
  f.quotient rc k src dsrc

/-- The quotient that one REM develops: all of q, or the bits of q from its highest one on, as many as REM_STEP
says, with zeros below (43 R259; log 10). A quotient of one bit is developed whatever the parameter is. -/
def developed (step : Option Nat) (q : Nat) : Nat :=
  if q.log2 = 0 then q
  else
    match step with
    | none => q
    | some k => q / 2 ^ (q.log2 - k) * 2 ^ (q.log2 - k)

/-- A result with the Z that REM gives: Z says that the reduction is complete (43 R259). -/
def FpResult.withZ (z : Bool) : FpResult → FpResult
  | .value b n _ ix uf ovf => .value b n z ix uf ovf
  | r => r

/-- REM with the parameter REM_STEP: dsrc less the developed part of the quotient times src, with the sign of dsrc,
always exact (43 R259; log 10). DESIGN CHOICE: an infinite src leaves any dsrc as it is, a denormalized one too,
without Underflow (43 R251 against R246 and R259; log 40). DESIGN CHOICE: where the result underflows, Z compares
the exact remainder with src, not the pattern with the adjusted exponent that is stored (log 41). -/
def FpFormat.remBy (f : FpFormat) (step : Option Nat) (rc : BitVec 2) (k src dsrc : Nat) : FpResult :=
  if f.isNan src || f.isNan dsrc then .invalid
  else if f.isZero src || f.isInf dsrc then .invalid
  else if f.isInf src then .value dsrc (f.isNeg dsrc) true false false false
  else
    let e := min (f.scale src) (f.scale dsrc)
    let m := f.mantAt e src
    let r := f.mantAt e dsrc - developed step (f.mantAt e dsrc / m) * m
    if r = 0 then f.zeroOf (f.sign dsrc) else (f.round rc k (f.sign dsrc) r 1 e).withZ (decide (r < m))

/-- REM of this machine (43 R259; log 10). -/
def FpFormat.rem (f : FpFormat) (rc : BitVec 2) (k src dsrc : Nat) : FpResult :=
  f.remBy Config.remStep rc k src dsrc

/-- The integer square root, one bit of the root at a time from bit i - 1 down. -/
def isqrtFrom (n : Nat) : Nat → Nat → Nat
  | 0, r => r
  | i + 1, r => if (r + 2 ^ i) * (r + 2 ^ i) ≤ n then isqrtFrom n i (r + 2 ^ i) else isqrtFrom n i r

/-- The largest number whose square is at most n. -/
def isqrt (n : Nat) : Nat := isqrtFrom n (n.log2 / 2 + 1) 0

/-- A root keeps N = 0; Z from the result (43 R260). -/
def FpResult.nonNegative : FpResult → FpResult
  | .value b _ z ix uf ovf => .value b false z ix uf ovf
  | r => r

/-- SQT: the square root correctly rounded (43 R260). The root is developed to more bits than the
format holds; a half stands for the bits beyond, so that rounding sees an inexact root as such. -/
def FpFormat.sqrt (f : FpFormat) (rc : BitVec 2) (k src : Nat) : FpResult :=
  if f.isNan src || f.isNeg src then .invalid
  else if f.isZero src || f.isInf src then .value src false (f.isZero src) false false false
  else
    let odd := (f.scale src) % 2 == 1
    let m := if odd then 2 * f.mant src else f.mant src
    let e := if odd then f.scale src - 1 else f.scale src
    let h := f.fracBits + 3
    let big := m * 2 ^ (2 * h)
    let root := isqrt big
    let num := 2 * root + (decide (root * root ≠ big)).toNat
    (f.round rc k false num 2 (e / 2 - h)).nonNegative

/-- A pattern with its sign bit inverted (43 R261). -/
def FpFormat.negate (f : FpFormat) (x : Nat) : Nat := f.pack (!f.sign x) (f.exp x) (f.frac x)

/-- dsrc with the sign bit of src (43 R262). -/
def FpFormat.copySign (f : FpFormat) (src dsrc : Nat) : Nat :=
  f.pack (f.sign src) (f.exp dsrc) (f.frac dsrc)

/-- An unrounded result: N and Z from the pattern, no exception flag (43 R261, R262). -/
def FpFormat.plain (f : FpFormat) (x : Nat) : FpResult :=
  .value x (f.isNeg x) (f.isZero x) false false false

/-- The exact value of a finite pattern scaled to the power e. -/
def FpFormat.signedAt (f : FpFormat) (e : Int) (x : Nat) : Int :=
  if f.sign x then -(f.mantAt e x : Int) else f.mantAt e x

/-- val(a) < val(b) for patterns that are no Nan (43 R263, R251). -/
def FpFormat.less (f : FpFormat) (a b : Nat) : Bool :=
  if f.isInf a && f.isInf b then f.sign a && !f.sign b
  else if f.isInf a then f.sign a
  else if f.isInf b then !f.sign b
  else
    let e := min (f.scale a) (f.scale b)
    decide (f.signedAt e a < f.signedAt e b)

/-- val(a) = val(b) for patterns that are no Nan (43 R263, R251). -/
def FpFormat.equal (f : FpFormat) (a b : Nat) : Bool :=
  if f.isInf a || f.isInf b then f.isInf a && f.isInf b && f.sign a == f.sign b
  else
    let e := min (f.scale a) (f.scale b)
    decide (f.signedAt e a = f.signedAt e b)

/-- CVRL and CVLR: the value of src in format f brought to format g (42 R223, R224). PRESUMED: a zero keeps its sign
in CVLR too; R223 says so of CVRL, R224 does not, and 43 R251 has no row for it (log 47). -/
def FpFormat.convert (f g : FpFormat) (rc : BitVec 2) (k src : Nat) : FpResult :=
  if f.isNan src then .invalid
  else if f.isInf src then g.infinity (f.sign src)
  else if f.isZero src then g.zeroOf (f.sign src)
  else g.round rc k (f.sign src) (f.mant src) 1 (f.scale src)

/-! ### The Fault Register (10 R22, 43 R252) -/

/-- The four bits fraction = 0, exponent = 0, exponent all ones, sign of an operand, from bit i on. -/
def FpFormat.operandBits (f : FpFormat) (x i : Nat) (fr : Word) : Word :=
  setBit (setBit (setBit (setBit fr i (f.frac x == 0)) (i + 1) (f.exp x == 0))
    (i + 2) (f.exp x == f.maxExp)) (i + 3) (f.sign x)

/-- FR after an instruction with one floating-point source: F1, E1, I1, S1 of the source, the rest a
free value (42 R211, R213; log 24). -/
def faultOne (f : FpFormat) (k src : Nat) : Word := f.operandBits src 3 (Config.freeFaultBits k)

/-- FR after an instruction with two floating-point operands: the four bits of src and of dsrc, the
rest a free value (43 R252; log 24). -/
def faultTwo (f : FpFormat) (k src dsrc : Nat) : Word := f.operandBits dsrc 7 (faultOne f k src)

end Sys2Proof.Machine
end

