-- ==== Sys2Proof/Machine/Ops.lean ====
section
/-! DEFINITION. The named operations over registers and memory (10 R10, R11, R21; 20 R60 to R71), taking
an exception and returning from one (60 R404, R406), and how an instruction ends (60 R402 steps 1
and 2). -/

namespace Sys2Proof.Machine

/-! ### General registers (10 R10, R11) -/

/-- The contents of a register. Half of a Longreal in an odd pair gives a free value (70 R481; log 16). -/
def State.reg (s : State) (n : Reg) : Word :=
  if n ∈ s.pairHazard then Config.staleRegister s.freeCount n else s.regs.get n

/-- One half of a Longreal in an odd pair: a free value where that register was written alone since
(70 R481; log 16). -/
def State.half (s : State) (n : Reg) : Word :=
  if n ∈ s.pieceHazard then Config.staleRegister s.freeCount n else s.regs.get n

/-- A Longreal: the low-order half in Rn, the high-order half in the register after it, R0 after R15
(10 R11). -/
def State.pair (s : State) (n : Reg) : Long :=
  if n.val % 2 = 1 then s.half (n + 1) ++ s.half n else s.reg (n + 1) ++ s.reg n

/-- The register that makes an odd pair with this one: the next after an odd one, the one before an even one. -/
def oddPartner (n : Reg) : Reg := if n.val % 2 = 1 then n + 1 else n - 1

/-- The registers that hold half of a Longreal in an odd pair, after n is written alone. -/
def pairAfter (n : Reg) (pairs : List Reg) : List Reg := pairs.filter (· ≠ n)

/-- The registers of such a pair written alone while the other half still stands, after n is written alone: n is one
then; where the other half no longer stands, the pair is exact again (10 R11; log 16). -/
def pieceAfter (n : Reg) (pairs pieces : List Reg) : List Reg :=
  if n ∈ pairs then
    (if oddPartner n ∈ pairs then n :: pieces else pieces.filter (· ≠ oddPartner n))
  else pieces

/-- Write one register, all 32 bits. -/
def State.setReg (s : State) (n : Reg) (v : Word) : State :=
  { s with
    regs := s.regs.set n v
    pairHazard := pairAfter n s.pairHazard
    pieceHazard := pieceAfter n s.pairHazard s.pieceHazard }

/-- Write a Longreal into a register pair (10 R11): an odd one is remembered, an even one is two registers, each
written alone (70 R481; log 16). -/
def State.setPair (s : State) (n : Reg) (v : Long) : State :=
  { s with
    regs := (s.regs.set n (v.extractLsb' 0 32)).set (n + 1).val (v.extractLsb' 32 32) (n + 1).isLt
    pairHazard :=
      if n.val % 2 = 1 then n :: (n + 1) :: pairAfter (n + 1) (pairAfter n s.pairHazard)
      else pairAfter (n + 1) (pairAfter n s.pairHazard)
    pieceHazard :=
      if n.val % 2 = 1 then s.pieceHazard.filter (fun r => r ≠ n ∧ r ≠ n + 1)
      else pieceAfter (n + 1) (pairAfter n s.pairHazard) (pieceAfter n s.pairHazard s.pieceHazard) }

/-! ### Memory (20 R60 to R71) -/

/-- The visits of an access as it takes them: an atomic one is taken whole when the agents have moved (20 R68). -/
def visitsOf (a n : Nat) (vs : List Visit) : List Visit :=
  if atomicAccess a n then vs.filter (fun v => match v with | .move _ => true | .byte _ => false) else vs

/-- The visits for the accesses to come, after an access has taken its own list. After the last list an empty one stays,
so that the later fetches of the turn look at what its moves have stored (93 U20; log 2). -/
def visitsAfter (rest : List (List Visit)) : List (List Visit) := if rest.isEmpty then [[]] else rest

/-- The bytes of n at a that a read takes one by one between the moves of agents: each once, the first visit counting
(20 R68, R71; log 2). -/
def readVisits (fp : Bool) (a n : Nat) : List Visit → List (Nat × Byte) → State → Res (List (Nat × Byte))
  | [], got, s => .ok got s
  | .move m :: vs, got, s => (agentMove m s).bind fun _ t => readVisits fp a n vs got t
  | .byte k :: vs, got, s =>
    readVisits fp a n vs
      (if k < n && (got.lookup (a + k)).isNone then (a + k, s.byteSeen fp a n (a + k)) :: got else got) s

/-- The bytes of v, n of them, that a write at a stores one by one between the moves of agents: each once, the first
visit counting (20 R68, R71; log 2). -/
def writeVisits (a n v : Nat) : List Visit → List Nat → State → Res (List Nat)
  | [], done, s => .ok done s
  | .move m :: vs, done, s => (agentMove m s).bind fun _ t => writeVisits a n v vs done t
  | .byte k :: vs, done, s =>
    if k < n && !done.contains (a + k) then
      writeVisits a n v vs ((a + k) :: done) { s with mem := s.mem.set (a + k) (BitVec.ofNat 8 (v / 256 ^ k)) }
    else writeVisits a n v vs done s

/-- MemRead: n bytes at a, checked (20 R62, R64), by a Real or Longreal operand (fp) or not. Other agents move before
and within it as the environment has chosen (20 R71); the bytes it has not visited are read last. -/
def readMem (fp : Bool) (a : Word) (n : Nat) (s : State) : Res Nat :=
  if inMemory a n then
    match s.during with
    | [] => .ok (s.load fp a.toNat n) s
    | vs :: rest =>
      (readVisits fp a.toNat n (visitsOf a.toNat n vs) [] { s with during := visitsAfter rest }).bind fun got t =>
        .ok (t.bytesSeen fp a.toNat n got a.toNat n) t
  else .exc 11 s

/-- MemWrite, checked: no part of a faulting access is made (20 R64). Other agents move before and within it as the
environment has chosen (20 R71); the bytes it has not visited are stored last. -/
def writeMem (fp : Bool) (a : Word) (n v : Nat) (s : State) : Res Unit :=
  let kind := if fp then Storer.float else Storer.other
  if inMemory a n then
    match s.during with
    | [] => .ok () (s.store kind a.toNat n v)
    | vs :: rest =>
      (writeVisits a.toNat n v (visitsOf a.toNat n vs) [] { s with during := visitsAfter rest }).bind fun done t =>
        .ok () { t.store kind a.toNat n v with mem := t.mem.writeRest done a.toNat n v }
  else .exc 11 s

/-! ### Fetching instruction bytes (30 R123, 20 R71, R76) -/

/-- Whether one of the n bytes at a has been stored to since the last taken transfer of control; the bytes of the
shadow ROM are not in memory (20 R76, 93 U20; log 15). -/
def State.storedSince (s : State) (a n : Nat) : Bool :=
  !s.romActive && s.dirty.any fun r => decide (r.1 < a + n) && decide (a < r.1 + r.2)

/-- The n instruction bytes at a that a fetch takes one by one between the moves of agents, the rest of them last. A
byte that has been stored to may be the old or the new one: refused (93 U20; log 2). -/
def fetchVisits (a n : Nat) : List Visit → List Nat → State → Res Unit
  | [], done, s =>
    if (List.range n).any (fun k => !done.contains k && s.storedSince (a + k) 1) then
      .refused .staleInstructionBytes
    else .ok () s
  | .move m :: vs, done, s => (agentMove m s).bind fun _ t => fetchVisits a n vs done t
  | .byte k :: vs, done, s =>
    if k < n && !done.contains k then
      if s.storedSince (a + k) 1 then .refused .staleInstructionBytes else fetchVisits a n vs (k :: done) s
    else fetchVisits a n vs done s

/-- Fetch8, Fetch16 or Fetch32, or the fetch of an eight-byte immediate: n bytes at a, all in memory (00 R7, 30 R123).
Other agents move before and within it as the environment has chosen (20 R71, 46 R370). The bytes themselves are known
from the decoding, since none of them has been stored to: in a turn that was given no visits nothing can have been
stored since its beginning, where `staleCode` has looked (log 2). -/
def fetchAccess (a n : Nat) (s : State) : Res Unit :=
  match s.during with
  | [] => .ok () s
  | vs :: rest =>
    fetchVisits a n (visitsOf a n vs) [] { s with during := visitsAfter rest, nextByte := a + n }

/-- Push a Word (10 R21). SP has moved when the write faults (20 R64). -/
def push (v : Word) (s : State) : Res Unit :=
  writeMem false (s.sp - 4) 4 v.toNat { s with sp := s.sp - 4 }

/-- Pop a Word (10 R21). -/
def pop (s : State) : Res Word :=
  (readMem false s.sp 4 s).bind fun v t => .ok (BitVec.ofNat 32 v) { t with sp := t.sp + 4 }

/-! ### The program counter (10 R12) -/

/-- The address after an instruction of length n that does not transfer control: the instruction itself
while a repetition is in progress (44 R312). -/
def State.following (s : State) (n : Nat) : Word :=
  if Ps.rep s.ps = 0 then s.pc + BitVec.ofNat 32 n else s.pc

/-- Go on behind an instruction of length n. -/
def State.advance (s : State) (n : Nat) : State := { s with pc := s.following n }

/-- Take a transfer of control to t: fetch sees all earlier stores from here on (20 R76; log 15). -/
def State.jumpTo (s : State) (t : Word) : State := { s with pc := t, dirty := [] }

/-! ### Loading PS (10 R20, 93 U4, U18) -/

/-- Load PS with a value that must not start a repetition: an NPS or the operand of LDPR. -/
def loadPs (v : Word) (s : State) : Res Unit :=
  if !Ps.legal v then .refused .reservedPsBits
  else if Ps.rep v ≠ 0 then .refused .repeatWithoutPrefix
  else .ok () { s with ps := v }

/-- Load PS with a popped value, which may resume a repetition (44 R314, 93 U4; log 22). -/
def restorePs (v : Word) (s : State) : Res Unit :=
  if !Ps.legal v then .refused .reservedPsBits else .ok () { s with ps := v }

/-! ### Taking an exception or interrupt, and returning (60 R404 to R407, R416) -/

/-- The sequence of 60 R404 for interrupt n, saving the PC value q. A push that meets an Address Error
gives the number 11. -/
def entrySequence (n : Nat) (q : Word) (s : State) : Res Unit :=
  (push s.ps s).bind fun _ s1 =>
  (push q s1).bind fun _ s2 =>
  (readMem false (BitVec.ofNat 32 (8 * n)) 4 s2).bind fun va s3 =>
  (readMem false (BitVec.ofNat 32 (8 * n + 4)) 4 s3).bind fun nps s4 =>
  (loadPs (BitVec.ofNat 32 nps) s4).bind fun _ s5 =>
  .ok () { s5.jumpTo (BitVec.ofNat 32 va) with waiting := false }

/-- Enter interrupt n, saving q: an Address Error inside the entry sets ERROR and the machine is stuck
(60 R407; log 14); nothing is entered while the shadow ROM runs (70 R464; log 29). -/
def enterOnly (n : Nat) (q : Word) (s : State) : Host.Outcome State Fault Refusal :=
  if s.romActive then .fault .exceptionInShadowRom
  else
    match entrySequence n q s with
    | .ok _ t => .next t
    | .exc _ t => .next { t with errorFlag := true, stuck := true }
    | .refused r => .refused r

/-- Whether SP has become less than 2048 between two values (60 R416). -/
def crossed (before after : Word) : Bool :=
  decide (2048 ≤ before.toNat) && decide (after.toNat < 2048)

/-- Stack Overflow after a change of SP that began at the value `before`: entered with q saved unless the
machine is stuck (60 R416, R402 step 2). -/
def checkStack (before q : Word) (s : State) : Host.Outcome State Fault Refusal :=
  if crossed before s.sp && !s.stuck then enterOnly 12 q s else .next s

/-- Take interrupt n, saving q; if the entry's own pushes take SP below 2048, Stack Overflow is entered at
once with the VA just loaded (60 R404, R416). -/
def enter (n : Nat) (q : Word) (s : State) : Host.Outcome State Fault Refusal :=
  match enterOnly n q s with
  | .next t => checkStack s.sp t.pc t
  | o => o

/-- Return from interrupt: pop PC, pop PS (45 R335). -/
def popReturn (s : State) : Res Unit :=
  (pop s).bind fun t s1 =>
  (pop s1).bind fun p s2 =>
  (restorePs p s2).bind fun _ s3 =>
  .ok () (s3.jumpTo t)

/-! ### The end of an instruction (60 R402 steps 1 and 2, R405) -/

/-- How an instruction that began in s0 ends: a raised exception is entered with pc0 saved; then Stack
Overflow is checked, with pc0 saved (60 R402, R405, R416; log 12). -/
def finish (s0 : State) (r : Res Unit) : Host.Outcome State Fault Refusal :=
  match r with
  | .ok _ s => checkStack s0.sp s0.pc s
  | .exc n s =>
    match enter n s0.pc s with
    | .next t => if crossed s0.sp s.sp && !t.stuck then enterOnly 12 s0.pc t else .next t
    | o => o
  | .refused r => .refused r

end Sys2Proof.Machine
end

