-- ==== Sys2Proof/Machine/Operands.lean ====
section
/-! DEFINITION. The addressing modes: legality of an address field (30 R114), effective addresses and side
effects (30 R99 to R113), and reading and writing operands (30 R116 to R121). In every function sp0 is the
SP at the beginning of the instruction; pc is the instruction's own address throughout. -/

namespace Sys2Proof.Machine

/-- Where an operand is: in the instruction itself, in a register, or in memory. -/
inductive Place where
  | value (v : Nat)
  | reg (n : Reg)
  | mem (a : Word)
  deriving DecidableEq, Repr

/-! ### Legality (30 R114) -/

/-- Whether a field is written (30 R95). -/
def isWritten (k : Access) : Bool := k == .w || k == .rw

/-- Whether the mode of a field is illegal for the access kind of its operand, which is Operand Error
(30 R114). Of a field that the end of memory cuts off only the mode byte is looked at (30 R123). -/
def modeIllegal {t : OpType} (k : Access) : Mode t → Bool
  | .reserved _ => true
  | .truncated none => false
  | .truncated (some b) => k == .reg || ((isWritten k || k == .a) && b == 0xFD#8)
  | .literal _ => isWritten k || k == .reg
  | .immediate _ => isWritten k || k == .a || k == .reg
  | .stk => k == .a || k == .reg
  | .register _ => false
  | _ => k == .reg

/-! ### Fetching a field (30 R116, R123) -/

/-- How many bytes of a field are fetched: all that are there; of an illegal one the mode byte, which is checked
before the bytes after it are fetched (30 R123). -/
def fetchedSize {t : OpType} (k : Access) (m : Mode t) : Nat :=
  if modeIllegal k m then min m.size 1 else m.size

/-- Fetch the mode byte of a field, and then the bytes after it in one access (30 R123). -/
def fetchField {t : OpType} (k : Access) (m : Mode t) (s : State) : Res Unit :=
  match fetchedSize k m with
  | 0 => .ok () s
  | 1 => fetchAccess s.nextByte 1 s
  | n + 2 => (fetchAccess s.nextByte 1 s).bind fun _ t => fetchAccess t.nextByte (n + 1) t

/-! ### Effective addresses and side effects (30 R99 to R113) -/

/-- The bits of a literal: sign-extended for an integer operand, converted for a floating-point one
(30 R99, 43 R245). -/
def literalBits (t : OpType) (n : BitVec 6) : Nat :=
  if t.isFp then ((fpFormat t).ofInt n.toInt).bits else (n.signExtend t.bits).toNat

/-- Where a field's operand is, and the side effect that comes before the access: Autodecrement (30 R102)
and the push of a written STK operand (30 R113). -/
def locate {t : OpType} (k : Access) (sp0 : Word) (m : Mode t) (s : State) : Res Place :=
  if modeIllegal k m then .exc 16 s
  else
    match m with
    | .literal n => .ok (.value (literalBits t n)) s
    | .regIndirect r => .ok (.mem (s.reg r)) s
    | .autoskip r => .ok (.mem (s.reg r)) s
    | .autoinc r => .ok (.mem (s.reg r)) s
    | .autoincInd r => (readMem false (s.reg r) 4 s).bind fun a s1 => .ok (.mem (BitVec.ofNat 32 a)) s1
    | .byteOffReg r d => .ok (.mem (s.reg r + d.signExtend 32)) s
    | .halfOffReg r d => .ok (.mem (s.reg r + d.signExtend 32)) s
    | .wordOffReg r d => .ok (.mem (s.reg r + d)) s
    | .wordOffRegInd r d =>
      (readMem false (s.reg r + d) 4 s).bind fun a s1 => .ok (.mem (BitVec.ofNat 32 a)) s1
    | .register r => .ok (.reg r) s
    | .autodec r =>
      .ok (.mem (s.reg r - BitVec.ofNat 32 t.len)) (s.setReg r (s.reg r - BitVec.ofNat 32 t.len))
    | .byteOffPc d => .ok (.mem (s.pc + d.signExtend 32)) s
    | .halfOffPc d => .ok (.mem (s.pc + d.signExtend 32)) s
    | .wordOffPc d => .ok (.mem (s.pc + d)) s
    | .wordOffPcInd d =>
      (readMem false (s.pc + d) 4 s).bind fun a s1 => .ok (.mem (BitVec.ofNat 32 a)) s1
    | .byteOffSp d => .ok (.mem (sp0 + d.signExtend 32)) s
    | .halfOffSp d => .ok (.mem (sp0 + d.signExtend 32)) s
    | .wordOffSp d => .ok (.mem (sp0 + d)) s
    | .wordOffSpInd d =>
      (readMem false (sp0 + d) 4 s).bind fun a s1 => .ok (.mem (BitVec.ofNat 32 a)) s1
    | .byteDirect a => .ok (.mem (a.setWidth 32)) s
    | .halfDirect a => .ok (.mem (a.setWidth 32)) s
    | .wordDirect a => .ok (.mem a) s
    | .wordIndirect a => (readMem false a 4 s).bind fun p s1 => .ok (.mem (BitVec.ofNat 32 p)) s1
    | .stk =>
      if k == .w then
        .ok (.mem (s.sp - BitVec.ofNat 32 t.len)) { s with sp := s.sp - BitVec.ofNat 32 t.len }
      else .ok (.mem s.sp) s
    | .immediate v => .ok (.value v.toNat) s
    | .reserved _ => .exc 16 s
    | .truncated _ => .exc 11 s

/-- Fetch a field and find its operand (30 R116 steps 3 and 4). -/
def locateField {t : OpType} (k : Access) (sp0 : Word) (m : Mode t) (s : State) : Res Place :=
  (fetchField k m s).bind fun _ s1 => locate k sp0 m s1

/-- The side effect on a register that comes after the access: Autoincrement, Autoskip, Autoincrement
Indirect (30 R103 to R105). -/
def stepRegister {t : OpType} (m : Mode t) (s : State) : State :=
  match m with
  | .autoinc r => s.setReg r (s.reg r + BitVec.ofNat 32 t.len)
  | .autoskip r => s.setReg r (s.reg r + s.reg (r + 1))
  | .autoincInd r => s.setReg r (s.reg r + 4)
  | _ => s

/-- The pop of an STK operand (30 R113 S1, S5, S7, S8). -/
def popOperand {t : OpType} (m : Mode t) (s : State) : State :=
  match m with
  | .stk => { s with sp := s.sp + BitVec.ofNat 32 t.len }
  | _ => s

/-- Whether a field is STK. -/
def isStk {t : OpType} : Mode t → Bool
  | .stk => true
  | _ => false

/-! ### Reading and writing operands (30 R100, R117 to R119) -/

/-- The value at a place, as an operand of type t (30 R100, R117). -/
def readPlace (t : OpType) (p : Place) (s : State) : Res (BitVec t.bits) :=
  match p with
  | .value v => .ok (BitVec.ofNat t.bits v) s
  | .reg n =>
    .ok (if t = .long then (s.pair n).setWidth t.bits else (s.reg n).setWidth t.bits) s
  | .mem a => (readMem t.isFp a t.len s).bind fun v s1 => .ok (BitVec.ofNat t.bits v) s1

/-- Write an operand of type t to a place: Bytes and Halfwords are sign-extended in a register (30 R100,
R119, 10 R11). A value in the instruction is no destination (30 R114). -/
def writePlace (t : OpType) (p : Place) (v : BitVec t.bits) (s : State) : Res Unit :=
  match p with
  | .value _ => .exc 16 s
  | .reg n => .ok () (if t = .long then s.setPair n (v.setWidth 64) else s.setReg n (v.signExtend 32))
  | .mem a => writeMem t.isFp a t.len v.toNat s

/-- Read a first field, or a second one of access kind v, with all its side effects (30 R116 step 3,
R121). -/
def readField {t : OpType} (sp0 : Word) (m : Mode t) (s : State) : Res (BitVec t.bits) :=
  (locateField .r sp0 m s).bind fun p s1 =>
  (readPlace t p s1).bind fun v s2 =>
  .ok v (popOperand m (stepRegister m s2))

/-- Read the second field of CMP or BIT: STK pops it only when the first field is STK too (30 R113 S2,
S5). -/
def readSecond {t u : OpType} (sp0 : Word) (src : Mode t) (m : Mode u) (s : State) :
    Res (BitVec u.bits) :=
  (locateField .r sp0 m s).bind fun p s1 =>
  (readPlace u p s1).bind fun v s2 =>
  .ok v (if isStk src then popOperand m (stepRegister m s2) else stepRegister m s2)

/-- Read a second field that is then written: its old value and its place (30 R116 step 4, R118). -/
def openModified {t : OpType} (sp0 : Word) (m : Mode t) (s : State) : Res (BitVec t.bits × Place) :=
  (locateField .rw sp0 m s).bind fun p s1 =>
  (readPlace t p s1).bind fun v s2 =>
  .ok (v, p) (stepRegister m s2)

/-- Evaluate a second field that is only written: its place (30 R116 step 4, R119). -/
def openWritten {t : OpType} (sp0 : Word) (m : Mode t) (s : State) : Res Place :=
  (locateField .w sp0 m s).bind fun p s1 => .ok p (stepRegister m s1)

/-- The operand address of a field whose operand is an address (30 R120, 44 R290). -/
def addressOf (sp0 : Word) (m : Mode .address) (s : State) : Res Word :=
  (fetchField .a m s).bind fun _ s1 =>
  match m with
  | .literal n => .ok (s1.pc + n.signExtend 32) s1
  | .register r => .ok (s1.pc + s1.reg r) s1
  | _ =>
    (locate .a sp0 m s1).bind fun p s2 =>
    match p with
    | .mem a => .ok a (stepRegister m s2)
    | _ => .exc 16 s2

end Sys2Proof.Machine
end

