-- ==== Sys2Proof/Machine/Communication.lean ====
section
/-! DEFINITION. The communication instructions (46 R363 to R367). -/

namespace Sys2Proof.Machine

/-- LPTR: load the address register of an idle port (46 R363, R362, 93 U8, U9). -/
def execLptr (src : Mode .word) (des : Mode .byte) (s : State) : Host.Outcome State Fault Refusal :=
  finish s <|
    (readField s.sp src s).bind fun v s1 =>
    (readField s.sp des s1).bind fun n s2 =>
    match portOfNumber n with
    | none => .refused .noSuchPort
    | some (.input p) =>
      let q := s2.inPorts.get p
      if q.count ≠ 0 then .refused .portBusy
      else .ok () ((s2.setInPort p { q with addr := evenPart v }).advance (Instr.lptr src des).length)
    | some (.output p) =>
      let q := s2.outPorts.get p
      if q.count ≠ 0 then .refused .portBusy
      else .ok () ((s2.setOutPort p { q with addr := evenPart v }).advance (Instr.lptr src des).length)

/-- LCNT: load the count register of an idle port, which starts the transfer; an input port's error
flags and notes are cleared (46 R364, 93 U8, U9). -/
def execLcnt (src : Mode .word) (des : Mode .byte) (s : State) : Host.Outcome State Fault Refusal :=
  finish s <|
    (readField s.sp src s).bind fun v s1 =>
    (readField s.sp des s1).bind fun n s2 =>
    match portOfNumber n with
    | none => .refused .noSuchPort
    | some (.input p) =>
      let q := s2.inPorts.get p
      if q.count ≠ 0 then .refused .portBusy
      else
        .ok () (({ s2 with
            pe := setBit s2.pe (portBit p) false
            io := setBit s2.io (portBit p) false }.setInPort p
          { q with count := evenPart v, parityNoted := false, overrunNoted := false }).advance
            (Instr.lcnt src des).length)
    | some (.output p) =>
      let q := s2.outPorts.get p
      if q.count ≠ 0 then .refused .portBusy
      else .ok () ((s2.setOutPort p { q with count := evenPart v }).advance (Instr.lcnt src des).length)

/-- Whether a mask selects a member of the broadcast in progress (46 R366). -/
def State.inBroadcast (s : State) (m : Word) : Bool :=
  match s.broadcast with
  | some b => b &&& m != 0
  | none => false

/-- BPTR: load the address registers of the selected output ports (46 R365); a member of the running
broadcast may not be selected (46 R366, 93 U14; log 23). -/
def execBptr (src des : Mode .word) (s : State) : Host.Outcome State Fault Refusal :=
  finish s <|
    (readField s.sp src s).bind fun v s1 =>
    (readField s.sp des s1).bind fun m s2 =>
    if m &&& ~~~portMask ≠ 0 then .refused .noSuchPort
    else if s2.inBroadcast m then .refused .broadcastRule
    else .ok () ((s2.mapSelected m fun q => { q with addr := evenPart v }).advance
      (Instr.bptr src des).length)

/-- BCNT: load the count registers of the selected output ports and, with a nonzero count, start a
broadcast over them (46 R367). The selected ports must be ready and, for a nonzero count, hold one address, and no
broadcast be running, whatever the mask (46 R366, 93 U14; log 23). -/
def execBcnt (src des : Mode .word) (s : State) : Host.Outcome State Fault Refusal :=
  finish s <|
    (readField s.sp src s).bind fun v s1 =>
    (readField s.sp des s1).bind fun m s2 =>
    let starts := evenPart v != 0 && m != 0
    if m &&& ~~~portMask ≠ 0 then .refused .noSuchPort
    else if s2.anySelected m (fun q => q.count != 0) then .refused .broadcastRule
    else if evenPart v != 0 && s2.broadcast.isSome then .refused .broadcastRule
    else if starts && s2.anySelected m (fun q => q.addr != s2.firstAddress m) then
      .refused .broadcastRule
    else
      .ok () ({ s2.mapSelected m (fun q => { q with count := evenPart v }) with
          broadcast := if starts then some m else s2.broadcast }.advance
        (Instr.bcnt src des).length)

end Sys2Proof.Machine
end

