-- ==== Sys2Proof/Machine/Control.lean ====
section
/-! DEFINITION. The branches, calls, returns and REPEAT prefixes (44). They are given here as they execute once the
pre-test of a REPEAT in force (Repeat.lean) has let them. -/

namespace Sys2Proof.Machine

/-- A conditional branch: PS.REP is cleared, the target evaluated whether or not the branch is taken; a
signed branch finding U = 1 sets IN and raises Invalid (44 R290, R303, R313; log 17). -/
def branch (len : Nat) (signed : Bool) (cond : Word → Bool) (src : Mode .address) (s : State) :
    Host.Outcome State Fault Refusal :=
  finish s <|
    (addressOf s.sp src { s with ps := Ps.withRep s.ps 0 }).bind fun t s1 =>
    if signed && Ps.u s1.ps then .exc 9 { s1 with ps := setBit s1.ps 9 true }
    else if cond s1.ps then .ok () (s1.jumpTo t)
    else .ok () (s1.advance len)

/-! ### Conditional branches (44 R291 to R303) -/

/-- BV: branch on V = 1 (44 R291). -/
def execBv (src : Mode .address) (s : State) : Host.Outcome State Fault Refusal :=
  branch (Instr.bv src).length false (fun ps => Ps.v ps) src s

/-- BNV: branch on V = 0 (44 R292). -/
def execBnv (src : Mode .address) (s : State) : Host.Outcome State Fault Refusal :=
  branch (Instr.bnv src).length false (fun ps => !Ps.v ps) src s

/-- BE: branch on Z = 1 (44 R293). -/
def execBe (src : Mode .address) (s : State) : Host.Outcome State Fault Refusal :=
  branch (Instr.be src).length false (fun ps => Ps.z ps) src s

/-- BNE: branch on Z = 0 (44 R294). -/
def execBne (src : Mode .address) (s : State) : Host.Outcome State Fault Refusal :=
  branch (Instr.bne src).length false (fun ps => !Ps.z ps) src s

/-- BG: branch signed, on N or Z = 0 (44 R295). -/
def execBg (src : Mode .address) (s : State) : Host.Outcome State Fault Refusal :=
  branch (Instr.bg src).length true (fun ps => !(Ps.n ps || Ps.z ps)) src s

/-- BGE: branch signed, on N = 0 (44 R296). -/
def execBge (src : Mode .address) (s : State) : Host.Outcome State Fault Refusal :=
  branch (Instr.bge src).length true (fun ps => !Ps.n ps) src s

/-- BL: branch signed, on N = 1 (44 R297). -/
def execBl (src : Mode .address) (s : State) : Host.Outcome State Fault Refusal :=
  branch (Instr.bl src).length true (fun ps => Ps.n ps) src s

/-- BLE: branch signed, on N or Z = 1 (44 R298). -/
def execBle (src : Mode .address) (s : State) : Host.Outcome State Fault Refusal :=
  branch (Instr.ble src).length true (fun ps => Ps.n ps || Ps.z ps) src s

/-- BGU: branch on C or Z = 0, or U = 1 (44 R299). -/
def execBgu (src : Mode .address) (s : State) : Host.Outcome State Fault Refusal :=
  branch (Instr.bgu src).length false (fun ps => !(Ps.c ps || Ps.z ps) || Ps.u ps) src s

/-- BGEU: branch on C = 0 or U = 1 (44 R300). -/
def execBgeu (src : Mode .address) (s : State) : Host.Outcome State Fault Refusal :=
  branch (Instr.bgeu src).length false (fun ps => !Ps.c ps || Ps.u ps) src s

/-- BLU: branch on C = 1 or U = 1 (44 R301). -/
def execBlu (src : Mode .address) (s : State) : Host.Outcome State Fault Refusal :=
  branch (Instr.blu src).length false (fun ps => Ps.c ps || Ps.u ps) src s

/-- BLEU: branch on C or Z = 1, or U = 1 (44 R302). -/
def execBleu (src : Mode .address) (s : State) : Host.Outcome State Fault Refusal :=
  branch (Instr.bleu src).length false (fun ps => Ps.c ps || Ps.z ps || Ps.u ps) src s

/-! ### Unconditional transfers (44 R304 to R307) -/

/-- JMP: PS.REP is cleared; the shadow ROM is left (44 R304, R313, 70 R466). -/
def execJmp (src : Mode .address) (s : State) : Host.Outcome State Fault Refusal :=
  finish s <|
    (addressOf s.sp src { s with ps := Ps.withRep s.ps 0 }).bind fun t s1 =>
    .ok () { s1.jumpTo t with romActive := false }

/-- CALL: push the address of the next instruction, or of the REPEAT before the CALL while one is in
force; PS.REP is cleared (44 R305). -/
def execCall (src : Mode .address) (s : State) : Host.Outcome State Fault Refusal :=
  finish s <|
    (addressOf s.sp src { s with ps := Ps.withRep s.ps 0 }).bind fun t s1 =>
    (push (if Ps.rep s.ps = 0 then s.pc + BitVec.ofNat 32 (Instr.call src).length else s.pc - 2)
      s1).bind fun _ s2 =>
    .ok () (s2.jumpTo t)

/-- RET: pop the return address; PS.REP is cleared (44 R306). -/
def execRet (s : State) : Host.Outcome State Fault Refusal :=
  finish s <|
    (pop { s with ps := Ps.withRep s.ps 0 }).bind fun t s1 => .ok () (s1.jumpTo t)

/-- RETP: read the operand, pop the return address, add the operand to SP; PS.REP is cleared
(44 R307). -/
def execRetp (src : Mode .word) (s : State) : Host.Outcome State Fault Refusal :=
  finish s <|
    (readField s.sp src { s with ps := Ps.withRep s.ps 0 }).bind fun v s1 =>
    (pop s1).bind fun t s2 =>
    .ok () ({ s2 with sp := s2.sp + v }.jumpTo t)

/-! ### REPEAT (44 R310) -/

/-- A REPEAT prefix: PS.REPREG and PS.REP are set, Z as `z` gives it from the old one; any field but
Register Direct is Operand Error (44 R310). -/
def repeatPrefix (len : Nat) (mode : BitVec 2) (z : Bool → Bool) (src : Mode .address) (s : State) :
    Host.Outcome State Fault Refusal :=
  finish s <|
    (locateField .reg s.sp src s).bind fun p s1 =>
    match p with
    | .reg r =>
      .ok () { s1 with
        ps := Ps.withRep (Ps.withRepReg (setBit s1.ps 2 (z (Ps.z s1.ps))) r) mode
        pc := s1.pc + BitVec.ofNat 32 len }
    | _ => .exc 16 s1

/-- REP: repeat while the count is not zero, Z unchanged (44 R310). -/
def execRep (src : Mode .address) (s : State) : Host.Outcome State Fault Refusal :=
  repeatPrefix (Instr.rep src).length 1 (fun z => z) src s

/-- REPZ: repeat while Z = 1, Z preset to 1 (44 R310). -/
def execRepz (src : Mode .address) (s : State) : Host.Outcome State Fault Refusal :=
  repeatPrefix (Instr.repz src).length 2 (fun _ => true) src s

/-- REPNZ: repeat while Z = 0, Z preset to 0 (44 R310). -/
def execRepnz (src : Mode .address) (s : State) : Host.Outcome State Fault Refusal :=
  repeatPrefix (Instr.repnz src).length 3 (fun _ => false) src s

end Sys2Proof.Machine
end

