-- ==== Sys2Proof/Machine/Forms.lean ====
section
/-! DEFINITION. The shapes of the two-field instructions, over the named operations: which operands
are read and written, the order of result, flags and exception (30 R116), and the delivery of Integer
Overflow (40 R154), Integer Zero Divide (40 R155) and the floating-point exceptions (43 R246, R248,
R250). len is the length of the instruction. -/

namespace Sys2Proof.Machine

/-! ### Integer and logical shapes -/

/-- Write C, V, Z, N from a result and U with 0 (40 R140). -/
def State.setFlags {w : Nat} (s : State) (r : AluResult w) : State :=
  { s with ps := Ps.withCond s.ps r.c r.v r.z r.n false }

/-- Integer Overflow after the result and the flags are written: interrupt 3 if PS.IV and PS.IE are 1
(40 R154). -/
def deliverOverflow (len : Nat) (v : Bool) (s : State) : Res Unit :=
  if v && Ps.iv s.ps && Ps.ie s.ps then .exc 3 s else .ok () (s.advance len)

/-- Store a result, write the flags, deliver Integer Overflow. -/
def storeInteger (len : Nat) (t : OpType) (p : Place) (r : AluResult t.bits) (s : State) : Res Unit :=
  (writePlace t p r.des s).bind fun _ s1 => deliverOverflow len r.v (s1.setFlags r)

/-- An integer instruction that modifies its second operand; op is given the carry. -/
def integerModify {t u : OpType} (len : Nat)
    (src : Mode t) (des : Mode u) (op : Bool → BitVec t.bits → BitVec u.bits → AluResult u.bits)
    (s : State) : Host.Outcome State Fault Refusal :=
  finish s <|
    (readField s.sp src s).bind fun a s1 =>
    (openModified s.sp des s1).bind fun bp s2 =>
    storeInteger len u bp.2 (op (Ps.c s2.ps) a bp.1) s2

/-- A division or remainder: Integer Zero Divide stores nothing and changes no flag (40 R155). -/
def integerDivide {t u : OpType} (len : Nat)
    (src : Mode t) (des : Mode u)
    (op : Bool → BitVec t.bits → BitVec u.bits → Option (AluResult u.bits)) (s : State) : Host.Outcome State Fault Refusal :=
  finish s <|
    (readField s.sp src s).bind fun a s1 =>
    (openModified s.sp des s1).bind fun bp s2 =>
    match op (Ps.c s2.ps) a bp.1 with
    | some r => storeInteger len u bp.2 r s2
    | none => .exc 4 s2

/-- An integer instruction that only writes its second operand. -/
def integerWrite {t u : OpType} (len : Nat) (src : Mode t) (des : Mode u)
    (op : Bool → BitVec t.bits → AluResult u.bits) (s : State) : Host.Outcome State Fault Refusal :=
  finish s <|
    (readField s.sp src s).bind fun a s1 =>
    (openWritten s.sp des s1).bind fun p s2 =>
    storeInteger len u p (op (Ps.c s2.ps) a) s2

/-- An instruction that reads both operands and writes only the flags (40 R147, 41 R184). -/
def integerCompare {t u : OpType} (len : Nat)
    (src : Mode t) (des : Mode u) (op : Bool → BitVec t.bits → BitVec u.bits → AluResult u.bits)
    (s : State) : Host.Outcome State Fault Refusal :=
  finish s <|
    (readField s.sp src s).bind fun a s1 =>
    (readSecond s.sp src des s1).bind fun b s2 =>
    .ok () ((s2.setFlags (op (Ps.c s2.ps) a b)).advance len)

/-- A conversion to an integer: as integerWrite, and the five floating-point exception flags are
written 0 (42 R213). -/
def integerConvert {t u : OpType} (len : Nat) (src : Mode t) (des : Mode u)
    (op : Bool → BitVec t.bits → AluResult u.bits) (s : State) : Host.Outcome State Fault Refusal :=
  finish s <|
    (readField s.sp src s).bind fun a s1 =>
    (openWritten s.sp des s1).bind fun p s2 =>
    let r := op (Ps.c s2.ps) a
    (writePlace u p r.des s2).bind fun _ s3 =>
    let s4 := s3.setFlags r
    deliverOverflow len r.v { s4 with ps := Ps.withFp s4.ps false false false false false }

/-- A move: no flag changes (42 R210). -/
def moveInteger {t : OpType} (len : Nat) (src des : Mode t) (s : State) :
    Host.Outcome State Fault Refusal :=
  finish s <|
    (readField s.sp src s).bind fun a s1 =>
    (openWritten s.sp des s1).bind fun p s2 =>
    (writePlace t p a s2).bind fun _ s3 => .ok () (s3.advance len)

/-! ### Floating-point shapes -/

/-- C = N and Z from a result, V and U 0, and the five floating-point exception flags (43 R247,
R248). -/
def Ps.ofFloat (ps : Word) (n z ix uf ovf : Bool) : Word :=
  Ps.withFp (Ps.withCond ps n false z n false) ix uf false ovf false

/-- PS after Floating Zero Divide or Invalid: that flag 1, the other four 0, V and U 0, C, N and Z
unchanged (43 R250). -/
def Ps.ofNoResult (ps : Word) (fz inv : Bool) : Word :=
  Ps.withFp (Ps.withCond ps (Ps.c ps) false (Ps.z ps) (Ps.n ps) false) false false fz false inv

/-- Store a floating-point result, write the flags, then deliver Overflow, Underflow or Inexact; Invalid
and Zero Divide store nothing (43 R248, R250). -/
def storeFloat (len : Nat) (t : OpType) (p : Place) (r : FpResult) (s : State) : Res Unit :=
  match r with
  | .invalid => .exc 9 { s with ps := Ps.ofNoResult s.ps false true }
  | .zeroDivide => .exc 7 { s with ps := Ps.ofNoResult s.ps true false }
  | .value b n z ix uf ovf =>
    (writePlace t p (BitVec.ofNat t.bits b) s).bind fun _ s1 =>
    let s2 : State := { s1 with ps := Ps.ofFloat s1.ps n z ix uf ovf }
    if ovf then .exc 8 s2
    else if uf then .exc 6 s2
    else if ix && Ps.iix s2.ps && Ps.ie s2.ps then .exc 5 s2
    else .ok () (s2.advance len)

/-- A floating-point instruction that modifies its second operand; op is given PS.RC and the draw
number. FR is written before any exception of the operation (43 R252). DESIGN CHOICE: an exception of the second field,
which comes before the operation, leaves FR (log 48). -/
def floatModify {t : OpType} (len : Nat) (src des : Mode t)
    (op : BitVec 2 → Nat → Nat → Nat → FpResult) (s : State) : Host.Outcome State Fault Refusal :=
  finish s <|
    (readField s.sp src s).bind fun a s1 =>
    (openModified s.sp des s1).bind fun bp s2 =>
    storeFloat len t bp.2 (op (Ps.rc s2.ps) s2.freeCount a.toNat bp.1.toNat)
      { s2 with fr := faultTwo (fpFormat t) s2.freeCount a.toNat bp.1.toNat }

/-- A floating-point instruction with one source that only writes its second operand. FR is written before any
exception of the operation (43 R252); that this holds of CVRL and CVLR too is the model's DESIGN CHOICE (log 45), and
so is that an exception of the second field leaves FR (log 48). -/
def floatWrite {t u : OpType} (len : Nat) (src : Mode t) (des : Mode u)
    (op : BitVec 2 → Nat → Nat → FpResult) (s : State) : Host.Outcome State Fault Refusal :=
  finish s <|
    (readField s.sp src s).bind fun a s1 =>
    (openWritten s.sp des s1).bind fun p s2 =>
    storeFloat len u p (op (Ps.rc s2.ps) s2.freeCount a.toNat)
      { s2 with fr := faultOne (fpFormat t) s2.freeCount a.toNat }

/-- A conversion of an integer to a floating-point value, always exact (42 R218 to R222); FR becomes a
free value (93 U5; log 24), before the destination is written, a DESIGN CHOICE (log 45); an exception of the second
field leaves FR (log 48). -/
def floatFromInteger {t u : OpType} (len : Nat) (src : Mode t) (des : Mode u) (s : State) :
    Host.Outcome State Fault Refusal :=
  finish s <|
    (readField s.sp src s).bind fun a s1 =>
    (openWritten s.sp des s1).bind fun p s2 =>
    storeFloat len u p ((fpFormat u).ofInt a.toInt) { s2 with fr := Config.freeFaultBits s2.freeCount }

/-- The flags of a comparison: U = 1 and C = N = Z = 0 when an operand is Nan (43 R263). -/
def floatCompareFlags (f : FpFormat) (ps : Word) (src dsrc : Nat) : Word :=
  let u := f.isNan src || f.isNan dsrc
  let less := !u && f.less src dsrc
  Ps.withFp (Ps.withCond ps less false (!u && f.equal src dsrc) less u) false false false false false

/-- A floating-point comparison (43 R263). DESIGN CHOICE: an exception of the second field leaves FR (log 48). -/
def floatCompare {t : OpType} (len : Nat) (src des : Mode t) (s : State) :
    Host.Outcome State Fault Refusal :=
  finish s <|
    (readField s.sp src s).bind fun a s1 =>
    (readSecond s.sp src des s1).bind fun b s2 =>
    .ok () ({ s2 with
      fr := faultTwo (fpFormat t) s2.freeCount a.toNat b.toNat
      ps := floatCompareFlags (fpFormat t) s2.ps a.toNat b.toNat }.advance len)

/-- A floating-point move: the pattern is copied, FR written, PS untouched (42 R211). DESIGN CHOICE: FR is written
before the destination, so that it describes the source also where that write raises Address Error (log 45), but not
where the second field raises an exception (log 48). -/
def moveFloat {t : OpType} (len : Nat) (src des : Mode t) (s : State) :
    Host.Outcome State Fault Refusal :=
  finish s <|
    (readField s.sp src s).bind fun a s1 =>
    (openWritten s.sp des s1).bind fun p s2 =>
    (writePlace t p a { s2 with fr := faultOne (fpFormat t) s2.freeCount a.toNat }).bind fun _ s3 =>
    .ok () (s3.advance len)

end Sys2Proof.Machine
end

