-- ==== Sys2Proof/Machine/FloatOps.lean ====
section
/-! DEFINITION. The floating-point instructions (43): one meaning each, over the shapes of Forms.lean and the
arithmetic of FloatArith.lean. -/

namespace Sys2Proof.Machine

/-- ADDR: src + dsrc to des, Real (43 R253). -/
def execAddr (src des : Mode .real) (s : State) : Host.Outcome State Fault Refusal :=
  floatModify (Instr.addr src des).length src des (fpFormat .real).add s

/-- ADDL: src + dsrc to des, Longreal (43 R253). -/
def execAddl (src des : Mode .long) (s : State) : Host.Outcome State Fault Refusal :=
  floatModify (Instr.addl src des).length src des (fpFormat .long).add s

/-- SUBR: dsrc - src to des, Real (43 R254). -/
def execSubr (src des : Mode .real) (s : State) : Host.Outcome State Fault Refusal :=
  floatModify (Instr.subr src des).length src des (fpFormat .real).sub s

/-- SUBL: dsrc - src to des, Longreal (43 R254). -/
def execSubl (src des : Mode .long) (s : State) : Host.Outcome State Fault Refusal :=
  floatModify (Instr.subl src des).length src des (fpFormat .long).sub s

/-- SBRR: src - dsrc to des, Real (43 R255). -/
def execSbrr (src des : Mode .real) (s : State) : Host.Outcome State Fault Refusal :=
  floatModify (Instr.sbrr src des).length src des (fpFormat .real).sbr s

/-- SBRL: src - dsrc to des, Longreal (43 R255). -/
def execSbrl (src des : Mode .long) (s : State) : Host.Outcome State Fault Refusal :=
  floatModify (Instr.sbrl src des).length src des (fpFormat .long).sbr s

/-- MULR: src * dsrc to des, Real (43 R256). -/
def execMulr (src des : Mode .real) (s : State) : Host.Outcome State Fault Refusal :=
  floatModify (Instr.mulr src des).length src des (fpFormat .real).mul s

/-- MULL: src * dsrc to des, Longreal (43 R256). -/
def execMull (src des : Mode .long) (s : State) : Host.Outcome State Fault Refusal :=
  floatModify (Instr.mull src des).length src des (fpFormat .long).mul s

/-- DIVR: dsrc / src to des, Real (43 R257). -/
def execDivr (src des : Mode .real) (s : State) : Host.Outcome State Fault Refusal :=
  floatModify (Instr.divr src des).length src des (fpFormat .real).div s

/-- DIVL: dsrc / src to des, Longreal (43 R257). -/
def execDivl (src des : Mode .long) (s : State) : Host.Outcome State Fault Refusal :=
  floatModify (Instr.divl src des).length src des (fpFormat .long).div s

/-- DVRR: src / dsrc to des, Real (43 R258). -/
def execDvrr (src des : Mode .real) (s : State) : Host.Outcome State Fault Refusal :=
  floatModify (Instr.dvrr src des).length src des (fpFormat .real).dvr s

/-- DVRL: src / dsrc to des, Longreal (43 R258). -/
def execDvrl (src des : Mode .long) (s : State) : Host.Outcome State Fault Refusal :=
  floatModify (Instr.dvrl src des).length src des (fpFormat .long).dvr s

/-- REMR: dsrc REM src to des, Real (43 R259). -/
def execRemr (src des : Mode .real) (s : State) : Host.Outcome State Fault Refusal :=
  floatModify (Instr.remr src des).length src des (fpFormat .real).rem s

/-- REML: dsrc REM src to des, Longreal (43 R259). -/
def execReml (src des : Mode .long) (s : State) : Host.Outcome State Fault Refusal :=
  floatModify (Instr.reml src des).length src des (fpFormat .long).rem s

/-- SQTR: the square root of src to des, Real (43 R260). -/
def execSqtr (src des : Mode .real) (s : State) : Host.Outcome State Fault Refusal :=
  floatWrite (Instr.sqtr src des).length src des (fpFormat .real).sqrt s

/-- SQTL: the square root of src to des, Longreal (43 R260). -/
def execSqtl (src des : Mode .long) (s : State) : Host.Outcome State Fault Refusal :=
  floatWrite (Instr.sqtl src des).length src des (fpFormat .long).sqrt s

/-- NEGR: src with its sign bit inverted to des, Real (43 R261). -/
def execNegr (src des : Mode .real) (s : State) : Host.Outcome State Fault Refusal :=
  floatWrite (Instr.negr src des).length src des
    (fun _ _ a => (fpFormat .real).plain ((fpFormat .real).negate a)) s

/-- NEGL: src with its sign bit inverted to des, Longreal (43 R261). -/
def execNegl (src des : Mode .long) (s : State) : Host.Outcome State Fault Refusal :=
  floatWrite (Instr.negl src des).length src des
    (fun _ _ a => (fpFormat .long).plain ((fpFormat .long).negate a)) s

/-- SGNR: dsrc with the sign of src to des, Real (43 R262). -/
def execSgnr (src des : Mode .real) (s : State) : Host.Outcome State Fault Refusal :=
  floatModify (Instr.sgnr src des).length src des
    (fun _ _ a b => (fpFormat .real).plain ((fpFormat .real).copySign a b)) s

/-- SGNL: dsrc with the sign of src to des, Longreal (43 R262). -/
def execSgnl (src des : Mode .long) (s : State) : Host.Outcome State Fault Refusal :=
  floatModify (Instr.sgnl src des).length src des
    (fun _ _ a b => (fpFormat .long).plain ((fpFormat .long).copySign a b)) s

/-- CMPR: the flags of src - dsrc, Real (43 R263). -/
def execCmpr (src des : Mode .real) (s : State) : Host.Outcome State Fault Refusal :=
  floatCompare (Instr.cmpr src des).length src des s

/-- CMPL: the flags of src - dsrc, Longreal (43 R263). -/
def execCmpl (src des : Mode .long) (s : State) : Host.Outcome State Fault Refusal :=
  floatCompare (Instr.cmpl src des).length src des s

end Sys2Proof.Machine
end

