-- ==== Sys2Proof/Machine/Integer.lean ====
section
/-! DEFINITION. The integer arithmetic instructions (40): one meaning each, over the shapes of Forms.lean and the
results and flags of Flags.lean. -/

namespace Sys2Proof.Machine

/-! ### Add and subtract (40 R141 to R147) -/

/-- ADDB: src + dsrc to des, Byte (40 R141). -/
def execAddb (src des : Mode .byte) (s : State) : Host.Outcome State Fault Refusal :=
  integerModify (Instr.addb src des).length src des (fun _ a b => addResult a b false) s

/-- ADDH: src + dsrc to des, Halfword (40 R141). -/
def execAddh (src des : Mode .half) (s : State) : Host.Outcome State Fault Refusal :=
  integerModify (Instr.addh src des).length src des (fun _ a b => addResult a b false) s

/-- ADDW: src + dsrc to des, Word (40 R141). -/
def execAddw (src des : Mode .word) (s : State) : Host.Outcome State Fault Refusal :=
  integerModify (Instr.addw src des).length src des (fun _ a b => addResult a b false) s

/-- ADCB: src + dsrc + Carry to des, Byte (40 R142). -/
def execAdcb (src des : Mode .byte) (s : State) : Host.Outcome State Fault Refusal :=
  integerModify (Instr.adcb src des).length src des (fun c a b => addResult a b c) s

/-- ADCH: src + dsrc + Carry to des, Halfword (40 R142). -/
def execAdch (src des : Mode .half) (s : State) : Host.Outcome State Fault Refusal :=
  integerModify (Instr.adch src des).length src des (fun c a b => addResult a b c) s

/-- ADCW: src + dsrc + Carry to des, Word (40 R142). -/
def execAdcw (src des : Mode .word) (s : State) : Host.Outcome State Fault Refusal :=
  integerModify (Instr.adcw src des).length src des (fun c a b => addResult a b c) s

/-- SUBB: dsrc - src to des, Byte (40 R143). -/
def execSubb (src des : Mode .byte) (s : State) : Host.Outcome State Fault Refusal :=
  integerModify (Instr.subb src des).length src des (fun _ a b => subResult a b false) s

/-- SUBH: dsrc - src to des, Halfword (40 R143). -/
def execSubh (src des : Mode .half) (s : State) : Host.Outcome State Fault Refusal :=
  integerModify (Instr.subh src des).length src des (fun _ a b => subResult a b false) s

/-- SUBW: dsrc - src to des, Word (40 R143). -/
def execSubw (src des : Mode .word) (s : State) : Host.Outcome State Fault Refusal :=
  integerModify (Instr.subw src des).length src des (fun _ a b => subResult a b false) s

/-- SBBB: dsrc - src - Carry to des, Byte (40 R144). -/
def execSbbb (src des : Mode .byte) (s : State) : Host.Outcome State Fault Refusal :=
  integerModify (Instr.sbbb src des).length src des (fun c a b => subResult a b c) s

/-- SBBH: dsrc - src - Carry to des, Halfword (40 R144). -/
def execSbbh (src des : Mode .half) (s : State) : Host.Outcome State Fault Refusal :=
  integerModify (Instr.sbbh src des).length src des (fun c a b => subResult a b c) s

/-- SBBW: dsrc - src - Carry to des, Word (40 R144). -/
def execSbbw (src des : Mode .word) (s : State) : Host.Outcome State Fault Refusal :=
  integerModify (Instr.sbbw src des).length src des (fun c a b => subResult a b c) s

/-- SBRB: src - dsrc to des, Byte (40 R145). -/
def execSbrb (src des : Mode .byte) (s : State) : Host.Outcome State Fault Refusal :=
  integerModify (Instr.sbrb src des).length src des (fun _ a b => sbrResult a b) s

/-- SBRH: src - dsrc to des, Halfword (40 R145). -/
def execSbrh (src des : Mode .half) (s : State) : Host.Outcome State Fault Refusal :=
  integerModify (Instr.sbrh src des).length src des (fun _ a b => sbrResult a b) s

/-- SBRW: src - dsrc to des, Word (40 R145). -/
def execSbrw (src des : Mode .word) (s : State) : Host.Outcome State Fault Refusal :=
  integerModify (Instr.sbrw src des).length src des (fun _ a b => sbrResult a b) s

/-- NEGB: -src to des, Byte (40 R146). -/
def execNegb (src des : Mode .byte) (s : State) : Host.Outcome State Fault Refusal :=
  integerWrite (Instr.negb src des).length src des (fun _ a => negResult a) s

/-- NEGH: -src to des, Halfword (40 R146). -/
def execNegh (src des : Mode .half) (s : State) : Host.Outcome State Fault Refusal :=
  integerWrite (Instr.negh src des).length src des (fun _ a => negResult a) s

/-- NEGW: -src to des, Word (40 R146). -/
def execNegw (src des : Mode .word) (s : State) : Host.Outcome State Fault Refusal :=
  integerWrite (Instr.negw src des).length src des (fun _ a => negResult a) s

/-- CMPB: the flags of src - dsrc, Byte (40 R147). -/
def execCmpb (src des : Mode .byte) (s : State) : Host.Outcome State Fault Refusal :=
  integerCompare (Instr.cmpb src des).length src des (fun _ a b => cmpResult a b) s

/-- CMPH: the flags of src - dsrc, Halfword (40 R147). -/
def execCmph (src des : Mode .half) (s : State) : Host.Outcome State Fault Refusal :=
  integerCompare (Instr.cmph src des).length src des (fun _ a b => cmpResult a b) s

/-- CMPW: the flags of src - dsrc, Word (40 R147). -/
def execCmpw (src des : Mode .word) (s : State) : Host.Outcome State Fault Refusal :=
  integerCompare (Instr.cmpw src des).length src des (fun _ a b => cmpResult a b) s

/-! ### Multiply, divide, remainder (40 R148 to R151) -/

/-- MULB: src * dsrc to des, Byte (40 R148). -/
def execMulb (src des : Mode .byte) (s : State) : Host.Outcome State Fault Refusal :=
  integerModify (Instr.mulb src des).length src des (fun c a b => mulResult a b c) s

/-- MULH: src * dsrc to des, Halfword (40 R148). -/
def execMulh (src des : Mode .half) (s : State) : Host.Outcome State Fault Refusal :=
  integerModify (Instr.mulh src des).length src des (fun c a b => mulResult a b c) s

/-- MULW: src * dsrc to des, Word (40 R148). -/
def execMulw (src des : Mode .word) (s : State) : Host.Outcome State Fault Refusal :=
  integerModify (Instr.mulw src des).length src des (fun c a b => mulResult a b c) s

/-- DIVB: dsrc / src to des, Byte (40 R149). -/
def execDivb (src des : Mode .byte) (s : State) : Host.Outcome State Fault Refusal :=
  integerDivide (Instr.divb src des).length src des (fun c a b => divResult b a c) s

/-- DIVH: dsrc / src to des, Halfword (40 R149). -/
def execDivh (src des : Mode .half) (s : State) : Host.Outcome State Fault Refusal :=
  integerDivide (Instr.divh src des).length src des (fun c a b => divResult b a c) s

/-- DIVW: dsrc / src to des, Word (40 R149). -/
def execDivw (src des : Mode .word) (s : State) : Host.Outcome State Fault Refusal :=
  integerDivide (Instr.divw src des).length src des (fun c a b => divResult b a c) s

/-- DVRB: src / dsrc to des, Byte (40 R150). -/
def execDvrb (src des : Mode .byte) (s : State) : Host.Outcome State Fault Refusal :=
  integerDivide (Instr.dvrb src des).length src des (fun c a b => divResult a b c) s

/-- DVRH: src / dsrc to des, Halfword (40 R150). -/
def execDvrh (src des : Mode .half) (s : State) : Host.Outcome State Fault Refusal :=
  integerDivide (Instr.dvrh src des).length src des (fun c a b => divResult a b c) s

/-- DVRW: src / dsrc to des, Word (40 R150). -/
def execDvrw (src des : Mode .word) (s : State) : Host.Outcome State Fault Refusal :=
  integerDivide (Instr.dvrw src des).length src des (fun c a b => divResult a b c) s

/-- REMB: dsrc REM src to des, Byte (40 R151). -/
def execRemb (src des : Mode .byte) (s : State) : Host.Outcome State Fault Refusal :=
  integerDivide (Instr.remb src des).length src des (fun c a b => remResult b a c) s

/-- REMH: dsrc REM src to des, Halfword (40 R151). -/
def execRemh (src des : Mode .half) (s : State) : Host.Outcome State Fault Refusal :=
  integerDivide (Instr.remh src des).length src des (fun c a b => remResult b a c) s

/-- REMW: dsrc REM src to des, Word (40 R151). -/
def execRemw (src des : Mode .word) (s : State) : Host.Outcome State Fault Refusal :=
  integerDivide (Instr.remw src des).length src des (fun c a b => remResult b a c) s

/-! ### Decimal (40 R152, R153) -/

/-- ADCD: decimal src + dsrc + Carry to des (40 R152). -/
def execAdcd (src des : Mode .byte) (s : State) : Host.Outcome State Fault Refusal :=
  integerModify (Instr.adcd src des).length src des (fun c a b => adcdResult s.freeCount a b c) s

/-- SBBD: decimal dsrc - src - Carry to des (40 R153). -/
def execSbbd (src des : Mode .byte) (s : State) : Host.Outcome State Fault Refusal :=
  integerModify (Instr.sbbd src des).length src des (fun c a b => sbbdResult s.freeCount a b c) s

end Sys2Proof.Machine
end

