-- ==== Sys2Proof/Machine/Logic.lean ====
section
/-! DEFINITION. The logical, bit-test, shift, rotate and find-first-one instructions (41). -/

namespace Sys2Proof.Machine

/-! ### Logical (41 R180 to R184) -/

/-- ANDB: src AND dsrc to des, Byte (41 R180). -/
def execAndb (src des : Mode .byte) (s : State) : Host.Outcome State Fault Refusal :=
  integerModify (Instr.andb src des).length src des (fun c a b => logicResult (a &&& b) c) s

/-- ANDH: src AND dsrc to des, Halfword (41 R180). -/
def execAndh (src des : Mode .half) (s : State) : Host.Outcome State Fault Refusal :=
  integerModify (Instr.andh src des).length src des (fun c a b => logicResult (a &&& b) c) s

/-- ANDW: src AND dsrc to des, Word (41 R180). -/
def execAndw (src des : Mode .word) (s : State) : Host.Outcome State Fault Refusal :=
  integerModify (Instr.andw src des).length src des (fun c a b => logicResult (a &&& b) c) s

/-- ORB: src OR dsrc to des, Byte (41 R181). -/
def execOrb (src des : Mode .byte) (s : State) : Host.Outcome State Fault Refusal :=
  integerModify (Instr.orb src des).length src des (fun c a b => logicResult (a ||| b) c) s

/-- ORH: src OR dsrc to des, Halfword (41 R181). -/
def execOrh (src des : Mode .half) (s : State) : Host.Outcome State Fault Refusal :=
  integerModify (Instr.orh src des).length src des (fun c a b => logicResult (a ||| b) c) s

/-- ORW: src OR dsrc to des, Word (41 R181). -/
def execOrw (src des : Mode .word) (s : State) : Host.Outcome State Fault Refusal :=
  integerModify (Instr.orw src des).length src des (fun c a b => logicResult (a ||| b) c) s

/-- XORB: src XOR dsrc to des, Byte (41 R182). -/
def execXorb (src des : Mode .byte) (s : State) : Host.Outcome State Fault Refusal :=
  integerModify (Instr.xorb src des).length src des (fun c a b => logicResult (a ^^^ b) c) s

/-- XORH: src XOR dsrc to des, Halfword (41 R182). -/
def execXorh (src des : Mode .half) (s : State) : Host.Outcome State Fault Refusal :=
  integerModify (Instr.xorh src des).length src des (fun c a b => logicResult (a ^^^ b) c) s

/-- XORW: src XOR dsrc to des, Word (41 R182). -/
def execXorw (src des : Mode .word) (s : State) : Host.Outcome State Fault Refusal :=
  integerModify (Instr.xorw src des).length src des (fun c a b => logicResult (a ^^^ b) c) s

/-- NOTB: NOT src to des, Byte (41 R183). -/
def execNotb (src des : Mode .byte) (s : State) : Host.Outcome State Fault Refusal :=
  integerWrite (Instr.notb src des).length src des (fun c a => logicResult (~~~a) c) s

/-- NOTH: NOT src to des, Halfword (41 R183). -/
def execNoth (src des : Mode .half) (s : State) : Host.Outcome State Fault Refusal :=
  integerWrite (Instr.noth src des).length src des (fun c a => logicResult (~~~a) c) s

/-- NOTW: NOT src to des, Word (41 R183). -/
def execNotw (src des : Mode .word) (s : State) : Host.Outcome State Fault Refusal :=
  integerWrite (Instr.notw src des).length src des (fun c a => logicResult (~~~a) c) s

/-- BITB: the flags of src AND dsrc, Byte (41 R184). -/
def execBitb (src des : Mode .byte) (s : State) : Host.Outcome State Fault Refusal :=
  integerCompare (Instr.bitb src des).length src des (fun c a b => logicResult (a &&& b) c) s

/-- BITH: the flags of src AND dsrc, Halfword (41 R184). -/
def execBith (src des : Mode .half) (s : State) : Host.Outcome State Fault Refusal :=
  integerCompare (Instr.bith src des).length src des (fun c a b => logicResult (a &&& b) c) s

/-- BITW: the flags of src AND dsrc, Word (41 R184). -/
def execBitw (src des : Mode .word) (s : State) : Host.Outcome State Fault Refusal :=
  integerCompare (Instr.bitw src des).length src des (fun c a b => logicResult (a &&& b) c) s

/-! ### Shifts and rotate: the count is a Byte (41 R185 to R188) -/

/-- SFTB: dsrc shifted logically by src, Byte (41 R186). -/
def execSftb (src des : Mode .byte) (s : State) : Host.Outcome State Fault Refusal :=
  integerModify (Instr.sftb src des).length src des (fun _ a b => sftResult a b) s

/-- SFTH: dsrc shifted logically by src, Halfword (41 R186). -/
def execSfth (src : Mode .byte) (des : Mode .half) (s : State) : Host.Outcome State Fault Refusal :=
  integerModify (Instr.sfth src des).length src des (fun _ a b => sftResult a b) s

/-- SFTW: dsrc shifted logically by src, Word (41 R186). -/
def execSftw (src : Mode .byte) (des : Mode .word) (s : State) : Host.Outcome State Fault Refusal :=
  integerModify (Instr.sftw src des).length src des (fun _ a b => sftResult a b) s

/-- SFAB: dsrc shifted arithmetically by src, Byte (41 R187). -/
def execSfab (src des : Mode .byte) (s : State) : Host.Outcome State Fault Refusal :=
  integerModify (Instr.sfab src des).length src des (fun _ a b => sfaResult a b) s

/-- SFAH: dsrc shifted arithmetically by src, Halfword (41 R187). -/
def execSfah (src : Mode .byte) (des : Mode .half) (s : State) : Host.Outcome State Fault Refusal :=
  integerModify (Instr.sfah src des).length src des (fun _ a b => sfaResult a b) s

/-- SFAW: dsrc shifted arithmetically by src, Word (41 R187). -/
def execSfaw (src : Mode .byte) (des : Mode .word) (s : State) : Host.Outcome State Fault Refusal :=
  integerModify (Instr.sfaw src des).length src des (fun _ a b => sfaResult a b) s

/-- ROTB: dsrc rotated by src, Byte (41 R188). -/
def execRotb (src des : Mode .byte) (s : State) : Host.Outcome State Fault Refusal :=
  integerModify (Instr.rotb src des).length src des (fun _ a b => rotResult a b) s

/-- ROTH: dsrc rotated by src, Halfword (41 R188). -/
def execRoth (src : Mode .byte) (des : Mode .half) (s : State) : Host.Outcome State Fault Refusal :=
  integerModify (Instr.roth src des).length src des (fun _ a b => rotResult a b) s

/-- ROTW: dsrc rotated by src, Word (41 R188). -/
def execRotw (src : Mode .byte) (des : Mode .word) (s : State) : Host.Outcome State Fault Refusal :=
  integerModify (Instr.rotw src des).length src des (fun _ a b => rotResult a b) s

/-! ### Find first one: the result is a Byte (41 R189) -/

/-- FFOB: the position of the first one of a Byte (41 R189). -/
def execFfob (src des : Mode .byte) (s : State) : Host.Outcome State Fault Refusal :=
  integerWrite (Instr.ffob src des).length src des (fun c a => ffoResult a c) s

/-- FFOH: the position of the first one of a Halfword (41 R189). -/
def execFfoh (src : Mode .half) (des : Mode .byte) (s : State) : Host.Outcome State Fault Refusal :=
  integerWrite (Instr.ffoh src des).length src des (fun c a => ffoResult a c) s

/-- FFOW: the position of the first one of a Word (41 R189). -/
def execFfow (src : Mode .word) (des : Mode .byte) (s : State) : Host.Outcome State Fault Refusal :=
  integerWrite (Instr.ffow src des).length src des (fun c a => ffoResult a c) s

end Sys2Proof.Machine
end

