-- ==== Sys2Proof/Machine/MoveConvert.lean ====
section
/-! DEFINITION. The move, move-address and convert instructions (42). -/

namespace Sys2Proof.Machine

/-! ### Moves (42 R210 to R212) -/

/-- MOVB: src to des, Byte (42 R210). -/
def execMovb (src des : Mode .byte) (s : State) : Host.Outcome State Fault Refusal :=
  moveInteger (Instr.movb src des).length src des s

/-- MOVH: src to des, Halfword (42 R210). -/
def execMovh (src des : Mode .half) (s : State) : Host.Outcome State Fault Refusal :=
  moveInteger (Instr.movh src des).length src des s

/-- MOVW: src to des, Word (42 R210). -/
def execMovw (src des : Mode .word) (s : State) : Host.Outcome State Fault Refusal :=
  moveInteger (Instr.movw src des).length src des s

/-- MOVR: src to des, Real, FR written (42 R211). -/
def execMovr (src des : Mode .real) (s : State) : Host.Outcome State Fault Refusal :=
  moveFloat (Instr.movr src des).length src des s

/-- MOVL: src to des, Longreal, FR written (42 R211). -/
def execMovl (src des : Mode .long) (s : State) : Host.Outcome State Fault Refusal :=
  moveFloat (Instr.movl src des).length src des s

/-- MOVA: the operand address of src to des, not checked against the limit; no flag changes (42 R212). -/
def execMova (src : Mode .address) (des : Mode .word) (s : State) : Host.Outcome State Fault Refusal :=
  finish s <|
    (addressOf s.sp src s).bind fun a s1 =>
    (openWritten s.sp des s1).bind fun p s2 =>
    (writePlace .word p a s2).bind fun _ s3 => .ok () (s3.advance (Instr.mova src des).length)

/-! ### Conversions between integers (42 R214 to R217) -/

/-- CVBW: Byte to Word (42 R214). -/
def execCvbw (src : Mode .byte) (des : Mode .word) (s : State) : Host.Outcome State Fault Refusal :=
  integerConvert (Instr.cvbw src des).length src des (fun c a => widenResult a c) s

/-- CVHW: Halfword to Word (42 R215). -/
def execCvhw (src : Mode .half) (des : Mode .word) (s : State) : Host.Outcome State Fault Refusal :=
  integerConvert (Instr.cvhw src des).length src des (fun c a => widenResult a c) s

/-- CVWB: Word to Byte (42 R216). -/
def execCvwb (src : Mode .word) (des : Mode .byte) (s : State) : Host.Outcome State Fault Refusal :=
  integerConvert (Instr.cvwb src des).length src des (fun c a => narrowResult 8 a c) s

/-- CVWH: Word to Halfword (42 R217). -/
def execCvwh (src : Mode .word) (des : Mode .half) (s : State) : Host.Outcome State Fault Refusal :=
  integerConvert (Instr.cvwh src des).length src des (fun c a => narrowResult 16 a c) s

/-! ### Conversions to Real and Longreal (42 R218 to R224) -/

/-- CVBR: Byte to Real (42 R218). -/
def execCvbr (src : Mode .byte) (des : Mode .real) (s : State) : Host.Outcome State Fault Refusal :=
  floatFromInteger (Instr.cvbr src des).length src des s

/-- CVHR: Halfword to Real (42 R219). -/
def execCvhr (src : Mode .half) (des : Mode .real) (s : State) : Host.Outcome State Fault Refusal :=
  floatFromInteger (Instr.cvhr src des).length src des s

/-- CVBL: Byte to Longreal (42 R220). -/
def execCvbl (src : Mode .byte) (des : Mode .long) (s : State) : Host.Outcome State Fault Refusal :=
  floatFromInteger (Instr.cvbl src des).length src des s

/-- CVHL: Halfword to Longreal (42 R221). -/
def execCvhl (src : Mode .half) (des : Mode .long) (s : State) : Host.Outcome State Fault Refusal :=
  floatFromInteger (Instr.cvhl src des).length src des s

/-- CVWL: Word to Longreal (42 R222). -/
def execCvwl (src : Mode .word) (des : Mode .long) (s : State) : Host.Outcome State Fault Refusal :=
  floatFromInteger (Instr.cvwl src des).length src des s

/-- CVRL: Real to Longreal (42 R223). -/
def execCvrl (src : Mode .real) (des : Mode .long) (s : State) : Host.Outcome State Fault Refusal :=
  floatWrite (Instr.cvrl src des).length src des ((fpFormat .real).convert (fpFormat .long)) s

/-- CVLR: Longreal to Real (42 R224). -/
def execCvlr (src : Mode .long) (des : Mode .real) (s : State) : Host.Outcome State Fault Refusal :=
  floatWrite (Instr.cvlr src des).length src des ((fpFormat .long).convert (fpFormat .real)) s

end Sys2Proof.Machine
end

