-- ==== Sys2Proof/Machine/System.lean ====
section
/-! DEFINITION. The system, flag and processor-register instructions (45) and the reserved opcodes (30 R96, R97). -/

namespace Sys2Proof.Machine

/-! ### No-operation, carry, enables, the ERROR flag (45 R330 to R339) -/

/-- NOP: does nothing (45 R330). -/
def execNop (s : State) : Host.Outcome State Fault Refusal :=
  finish s (.ok () (s.advance Instr.nop.length))

/-- CLC: C to 0 (45 R331). -/
def execClc (s : State) : Host.Outcome State Fault Refusal :=
  finish s (.ok () ({ s with ps := setBit s.ps 0 false }.advance Instr.clc.length))

/-- STC: C to 1 (45 R332). -/
def execStc (s : State) : Host.Outcome State Fault Refusal :=
  finish s (.ok () ({ s with ps := setBit s.ps 0 true }.advance Instr.stc.length))

/-- CMC: C complemented (45 R334). -/
def execCmc (s : State) : Host.Outcome State Fault Refusal :=
  finish s (.ok () ({ s with ps := setBit s.ps 0 (!Ps.c s.ps) }.advance Instr.cmc.length))

/-- EI: PS.IE to 1 (45 R336). -/
def execEi (s : State) : Host.Outcome State Fault Refusal :=
  finish s (.ok () ({ s with ps := setBit s.ps 20 true }.advance Instr.ei.length))

/-- DI: PS.IE to 0 (45 R337). -/
def execDi (s : State) : Host.Outcome State Fault Refusal :=
  finish s (.ok () ({ s with ps := setBit s.ps 20 false }.advance Instr.di.length))

/-- ERON: the ERROR flag to 1 (45 R338). -/
def execEron (s : State) : Host.Outcome State Fault Refusal :=
  finish s (.ok () ({ s with errorFlag := true }.advance Instr.eron.length))

/-- EROF: the ERROR flag to 0 (45 R339). -/
def execErof (s : State) : Host.Outcome State Fault Refusal :=
  finish s (.ok () ({ s with errorFlag := false }.advance Instr.erof.length))

/-! ### Processor registers (10 R13, 45 R340, R341) -/

/-- Load processor register k: FR, OR, IR, IP, PE and IO are read only; numbers 13 and above do nothing
(45 R340, 93 U12; log 20). PS may not be loaded under a REPEAT (93 U16) nor with a REPEAT or reserved
bits (93 U4, U18). DESIGN CHOICE: an LDPR to PS that the pre-test skips does not come here and is not refused (log
46). -/
def loadProcessorRegister (k : Byte) (v : Word) (s : State) : Res Unit :=
  match k.toNat with
  | 0 => .ok () { s with sp := v }
  | 1 => if Ps.rep s.ps ≠ 0 then .refused .repeatBeforeControl else loadPs v s
  | 3 => .ok () { s with cr := (s.cr &&& 0xFF000000) ||| (v &&& 0x00FFFFFF) }
  | 4 => .ok () { s with pi := (s.pi &&& 0x80000000) ||| (v &&& 0x7FFFFFFF) }
  | 5 => .ok () { s with tr := v }
  | 8 => .ok () { s with oe := v &&& portMask }
  | 9 => .ok () { s with ie := v &&& portMask }
  | _ => .ok () s

/-- The value of processor register k; numbers 13 and above give a free value (10 R13, 45 R341, 93 U12;
log 20). -/
def State.processorRegister (s : State) (k : Byte) : Word :=
  match k.toNat with
  | 0 => s.sp
  | 1 => s.ps
  | 2 => s.fr
  | 3 => s.cr
  | 4 => s.pi
  | 5 => s.tr
  | 6 => s.outputReady
  | 7 => s.inputReady
  | 8 => s.oe
  | 9 => s.ie
  | 10 => s.inputPending
  | 11 => s.pe
  | 12 => s.io
  | _ => Config.freeProcessorRegister s.freeCount k

/-- LDPR: load the processor register that the second operand names (45 R340). -/
def execLdpr (src : Mode .word) (des : Mode .byte) (s : State) : Host.Outcome State Fault Refusal :=
  finish s <|
    (readField s.sp src s).bind fun v s1 =>
    (readField s.sp des s1).bind fun k s2 =>
    (loadProcessorRegister k v s2).bind fun _ s3 =>
    .ok () (s3.advance (Instr.ldpr src des).length)

/-- STPR: store the processor register that the first operand names, with SP as it was when the instruction began;
N and Z from it, V and U 0, C unchanged (45 R341). DESIGN CHOICE: the spec says so of SP where the destination
pushes; the model takes the SP before the pop of an STK first operand too (log 42). -/
def execStpr (src : Mode .byte) (des : Mode .word) (s : State) : Host.Outcome State Fault Refusal :=
  finish s <|
    (readField s.sp src s).bind fun k s1 =>
    (openWritten s.sp des s1).bind fun p s2 =>
    storeInteger (Instr.stpr src des).length .word p
      (logicResult ({ s2 with sp := s.sp }.processorRegister k) (Ps.c s2.ps)) s2

/-! ### Software interrupts and returns (45 R333, R335, R342, R343) -/

/-- A software interrupt raised in s by an instruction that began in s0: entry with the address of the
next instruction saved, then Stack Overflow with pc0 saved (45 R342, 60 R405, R416; log 13). -/
def softwareInterrupt (s0 : State) (len n : Nat) (s : State) : Host.Outcome State Fault Refusal :=
  match enterOnly n (s0.pc + BitVec.ofNat 32 len) s with
  | .next t => checkStack s0.sp s0.pc t
  | o => o

/-- TRAP: the operand, an unsigned Byte, is the interrupt number (45 R342). -/
def execTrap (src : Mode .byte) (s : State) : Host.Outcome State Fault Refusal :=
  match readField s.sp src s with
  | .ok n s1 => softwareInterrupt s (Instr.trap src).length n.toNat s1
  | .exc n s1 => finish s (.exc n s1)
  | .refused r => .refused r

/-- BKPT: interrupt 2 (45 R343). -/
def execBkpt (s : State) : Host.Outcome State Fault Refusal :=
  softwareInterrupt s Instr.bkpt.length 2 s

/-- RETI: pop PC, pop PS; an Uncorrectable ECC interrupt counts as handled (45 R335, 60 R419). -/
def execReti (s : State) : Host.Outcome State Fault Refusal :=
  finish s <| (popReturn s).bind fun _ s1 => .ok () { s1 with ueMarker := false }

/-- RETT: as RETI, and no interrupt is taken until the next instruction is completed (45 R333). -/
def execRett (s : State) : Host.Outcome State Fault Refusal :=
  finish s <| (popReturn s).bind fun _ s1 => .ok () { s1 with inhibit := true }

/-! ### Idle and re-initialise (45 R344, R345) -/

/-- WAIT: idle until an interrupt is taken (45 R344). -/
def execWait (s : State) : Host.Outcome State Fault Refusal :=
  finish s (.ok () ({ s with waiting := true }.advance Instr.wait.length))

/-- All ports idle, their registers and the broadcast record cleared, nothing on the outgoing links, the pending
interrupts cleared (45 R345, 60 R426, 10 R40). DESIGN CHOICE: that takes in an error corrected during this RSET
itself, which `State.prepared` has noted before it (log 43). -/
def State.resetPorts (s : State) : State :=
  { s with
    inPorts := Vector.replicate 11 InPort.idle
    outPorts := Vector.replicate 11 OutPort.idle
    broadcast := none
    oe := 0
    ie := 0
    pe := 0
    io := 0
    cePending := false
    uePending := false }

/-- RSET: re-initialise the ports and the pending interrupts (45 R345, 70 R470). -/
def execRset (s : State) : Host.Outcome State Fault Refusal :=
  finish s (.ok () (s.resetPorts.advance Instr.rset.length))

/-! ### Reserved and escape opcodes (30 R96, R97, 60 R414) -/

/-- RES: Unimplemented Opcode, no field looked at (30 R96). -/
def execRes (_op : Byte) (s : State) : Host.Outcome State Fault Refusal :=
  finish s (.exc 10 s)

/-- ESC: Unimplemented Opcode, no field looked at (30 R97). -/
def execEsc (_op : Byte) (s : State) : Host.Outcome State Fault Refusal :=
  finish s (.exc 10 s)

end Sys2Proof.Machine
end

