-- ==== Sys2Proof/Machine/Dispatch.lean ====
section
/-! DEFINITION. The meaning of every instruction: one call per constructor. -/

namespace Sys2Proof.Machine

/-- Execute an instruction whose address is pc, once the pre-test of a REPEAT in force has let it. -/
def exec (i : Instr) (s : State) : Host.Outcome State Fault Refusal :=
  match i with
  | .negb src des => Sys2Proof.Machine.execNegb src des s
  | .negh src des => Sys2Proof.Machine.execNegh src des s
  | .negw src des => Sys2Proof.Machine.execNegw src des s
  | .sbrb src des => Sys2Proof.Machine.execSbrb src des s
  | .sbrh src des => Sys2Proof.Machine.execSbrh src des s
  | .sbrw src des => Sys2Proof.Machine.execSbrw src des s
  | .cmpb src des => Sys2Proof.Machine.execCmpb src des s
  | .cmph src des => Sys2Proof.Machine.execCmph src des s
  | .cmpw src des => Sys2Proof.Machine.execCmpw src des s
  | .addb src des => Sys2Proof.Machine.execAddb src des s
  | .addh src des => Sys2Proof.Machine.execAddh src des s
  | .addw src des => Sys2Proof.Machine.execAddw src des s
  | .adcb src des => Sys2Proof.Machine.execAdcb src des s
  | .adch src des => Sys2Proof.Machine.execAdch src des s
  | .adcw src des => Sys2Proof.Machine.execAdcw src des s
  | .subb src des => Sys2Proof.Machine.execSubb src des s
  | .subh src des => Sys2Proof.Machine.execSubh src des s
  | .subw src des => Sys2Proof.Machine.execSubw src des s
  | .sbbb src des => Sys2Proof.Machine.execSbbb src des s
  | .sbbh src des => Sys2Proof.Machine.execSbbh src des s
  | .sbbw src des => Sys2Proof.Machine.execSbbw src des s
  | .mulb src des => Sys2Proof.Machine.execMulb src des s
  | .adcd src des => Sys2Proof.Machine.execAdcd src des s
  | .mulh src des => Sys2Proof.Machine.execMulh src des s
  | .mulw src des => Sys2Proof.Machine.execMulw src des s
  | .dvrb src des => Sys2Proof.Machine.execDvrb src des s
  | .sbbd src des => Sys2Proof.Machine.execSbbd src des s
  | .dvrh src des => Sys2Proof.Machine.execDvrh src des s
  | .dvrw src des => Sys2Proof.Machine.execDvrw src des s
  | .remb src des => Sys2Proof.Machine.execRemb src des s
  | .remh src des => Sys2Proof.Machine.execRemh src des s
  | .remw src des => Sys2Proof.Machine.execRemw src des s
  | .divb src des => Sys2Proof.Machine.execDivb src des s
  | .divh src des => Sys2Proof.Machine.execDivh src des s
  | .divw src des => Sys2Proof.Machine.execDivw src des s
  | .sftb src des => Sys2Proof.Machine.execSftb src des s
  | .sfth src des => Sys2Proof.Machine.execSfth src des s
  | .sftw src des => Sys2Proof.Machine.execSftw src des s
  | .sfab src des => Sys2Proof.Machine.execSfab src des s
  | .sfah src des => Sys2Proof.Machine.execSfah src des s
  | .sfaw src des => Sys2Proof.Machine.execSfaw src des s
  | .rotb src des => Sys2Proof.Machine.execRotb src des s
  | .roth src des => Sys2Proof.Machine.execRoth src des s
  | .rotw src des => Sys2Proof.Machine.execRotw src des s
  | .ffob src des => Sys2Proof.Machine.execFfob src des s
  | .ffoh src des => Sys2Proof.Machine.execFfoh src des s
  | .ffow src des => Sys2Proof.Machine.execFfow src des s
  | .andb src des => Sys2Proof.Machine.execAndb src des s
  | .andh src des => Sys2Proof.Machine.execAndh src des s
  | .andw src des => Sys2Proof.Machine.execAndw src des s
  | .orb src des => Sys2Proof.Machine.execOrb src des s
  | .orh src des => Sys2Proof.Machine.execOrh src des s
  | .orw src des => Sys2Proof.Machine.execOrw src des s
  | .xorb src des => Sys2Proof.Machine.execXorb src des s
  | .xorh src des => Sys2Proof.Machine.execXorh src des s
  | .xorw src des => Sys2Proof.Machine.execXorw src des s
  | .notb src des => Sys2Proof.Machine.execNotb src des s
  | .noth src des => Sys2Proof.Machine.execNoth src des s
  | .notw src des => Sys2Proof.Machine.execNotw src des s
  | .bitb src des => Sys2Proof.Machine.execBitb src des s
  | .bith src des => Sys2Proof.Machine.execBith src des s
  | .bitw src des => Sys2Proof.Machine.execBitw src des s
  | .movb src des => Sys2Proof.Machine.execMovb src des s
  | .movh src des => Sys2Proof.Machine.execMovh src des s
  | .movw src des => Sys2Proof.Machine.execMovw src des s
  | .movr src des => Sys2Proof.Machine.execMovr src des s
  | .cvbr src des => Sys2Proof.Machine.execCvbr src des s
  | .movl src des => Sys2Proof.Machine.execMovl src des s
  | .cvhr src des => Sys2Proof.Machine.execCvhr src des s
  | .cvlr src des => Sys2Proof.Machine.execCvlr src des s
  | .cvbl src des => Sys2Proof.Machine.execCvbl src des s
  | .cvhl src des => Sys2Proof.Machine.execCvhl src des s
  | .cvwl src des => Sys2Proof.Machine.execCvwl src des s
  | .cvrl src des => Sys2Proof.Machine.execCvrl src des s
  | .cvbw src des => Sys2Proof.Machine.execCvbw src des s
  | .cvhw src des => Sys2Proof.Machine.execCvhw src des s
  | .cvwb src des => Sys2Proof.Machine.execCvwb src des s
  | .cvwh src des => Sys2Proof.Machine.execCvwh src des s
  | .mova src des => Sys2Proof.Machine.execMova src des s
  | .negr src des => Sys2Proof.Machine.execNegr src des s
  | .negl src des => Sys2Proof.Machine.execNegl src des s
  | .sbrr src des => Sys2Proof.Machine.execSbrr src des s
  | .sbrl src des => Sys2Proof.Machine.execSbrl src des s
  | .cmpr src des => Sys2Proof.Machine.execCmpr src des s
  | .cmpl src des => Sys2Proof.Machine.execCmpl src des s
  | .addr src des => Sys2Proof.Machine.execAddr src des s
  | .addl src des => Sys2Proof.Machine.execAddl src des s
  | .sqtr src des => Sys2Proof.Machine.execSqtr src des s
  | .sqtl src des => Sys2Proof.Machine.execSqtl src des s
  | .subr src des => Sys2Proof.Machine.execSubr src des s
  | .subl src des => Sys2Proof.Machine.execSubl src des s
  | .sgnr src des => Sys2Proof.Machine.execSgnr src des s
  | .sgnl src des => Sys2Proof.Machine.execSgnl src des s
  | .mulr src des => Sys2Proof.Machine.execMulr src des s
  | .mull src des => Sys2Proof.Machine.execMull src des s
  | .dvrr src des => Sys2Proof.Machine.execDvrr src des s
  | .dvrl src des => Sys2Proof.Machine.execDvrl src des s
  | .remr src des => Sys2Proof.Machine.execRemr src des s
  | .reml src des => Sys2Proof.Machine.execReml src des s
  | .divr src des => Sys2Proof.Machine.execDivr src des s
  | .divl src des => Sys2Proof.Machine.execDivl src des s
  | .bg src => Sys2Proof.Machine.execBg src s
  | .rep src => Sys2Proof.Machine.execRep src s
  | .ble src => Sys2Proof.Machine.execBle src s
  | .repz src => Sys2Proof.Machine.execRepz src s
  | .bgu src => Sys2Proof.Machine.execBgu src s
  | .repnz src => Sys2Proof.Machine.execRepnz src s
  | .bleu src => Sys2Proof.Machine.execBleu src s
  | .bge src => Sys2Proof.Machine.execBge src s
  | .bl src => Sys2Proof.Machine.execBl src s
  | .bgeu src => Sys2Proof.Machine.execBgeu src s
  | .blu src => Sys2Proof.Machine.execBlu src s
  | .bne src => Sys2Proof.Machine.execBne src s
  | .be src => Sys2Proof.Machine.execBe src s
  | .bnv src => Sys2Proof.Machine.execBnv src s
  | .bv src => Sys2Proof.Machine.execBv src s
  | .call src => Sys2Proof.Machine.execCall src s
  | .jmp src => Sys2Proof.Machine.execJmp src s
  | .ret => Sys2Proof.Machine.execRet s
  | .retp src => Sys2Proof.Machine.execRetp src s
  | .nop => Sys2Proof.Machine.execNop s
  | .clc => Sys2Proof.Machine.execClc s
  | .stc => Sys2Proof.Machine.execStc s
  | .cmc => Sys2Proof.Machine.execCmc s
  | .eron => Sys2Proof.Machine.execEron s
  | .trap src => Sys2Proof.Machine.execTrap src s
  | .erof => Sys2Proof.Machine.execErof s
  | .bkpt => Sys2Proof.Machine.execBkpt s
  | .rset => Sys2Proof.Machine.execRset s
  | .ldpr src des => Sys2Proof.Machine.execLdpr src des s
  | .ei => Sys2Proof.Machine.execEi s
  | .stpr src des => Sys2Proof.Machine.execStpr src des s
  | .di => Sys2Proof.Machine.execDi s
  | .wait => Sys2Proof.Machine.execWait s
  | .reti => Sys2Proof.Machine.execReti s
  | .rett => Sys2Proof.Machine.execRett s
  | .lcnt src des => Sys2Proof.Machine.execLcnt src des s
  | .lptr src des => Sys2Proof.Machine.execLptr src des s
  | .bcnt src des => Sys2Proof.Machine.execBcnt src des s
  | .bptr src des => Sys2Proof.Machine.execBptr src des s
  | .res op => Sys2Proof.Machine.execRes op s
  | .esc op => Sys2Proof.Machine.execEsc op s

end Sys2Proof.Machine
end

