-- ==== Sys2Proof/Machine/Repeat.lean ====
section
/-! DEFINITION. The pre-test of an instruction that a REPEAT governs (44 R311 to R313) and the
programs a REPEAT may not govern (44 R315). -/

namespace Sys2Proof.Machine

/-! ### What a REPEAT may not govern (44 R315, 93 U10, U11, U16; log 19) -/

/-- Whether an address field uses register c, in its mode or as its operand; a Longreal uses two registers
(10 R11), Autoskip the register after its own (30 R104). -/
def modeUses {t : OpType} (c : Reg) : Mode t → Bool
  | .regIndirect r | .autoinc r | .autoincInd r | .byteOffReg r _ | .halfOffReg r _
  | .wordOffReg r _ | .wordOffRegInd r _ | .autodec r => r == c
  | .autoskip r => r == c || r + 1 == c
  | .register r => r == c || (t == .long && r + 1 == c)
  | _ => false

/-- The instructions that the floating-point unit performs: those with a Real or Longreal operand, and
integer multiply, divide and remainder (70 R482). -/
def usesFloatUnit (i : Instr) : Bool :=
  match i with
  | .mulb _ _ | .mulh _ _ | .mulw _ _ | .divb _ _ | .divh _ _ | .divw _ _ | .dvrb _ _ | .dvrh _ _
  | .dvrw _ _ | .remb _ _ | .remh _ _ | .remw _ _ => true
  | _ => i.fields.any fun f => f.type.isFp

/-- The instructions of 93 U16 but LDPR, which is refused by its own meaning when it names PS. DESIGN CHOICE: so these
are refused whatever the count, and an LDPR to PS only where the pre-test does not skip it (log 46). -/
def notRepeatable (i : Instr) : Bool :=
  match i with
  | .rep _ | .repz _ | .repnz _ | .trap _ | .bkpt | .reti | .rett | .wait => true
  | _ => false

/-- The fields up to the first one that is illegal or that the end of memory cuts off: that one ends the instruction
before the next is looked at (30 R114, R123). -/
def fieldsBeforeFault (fs : List Field) : List Field :=
  fs.takeWhile fun f => !modeIllegal f.access f.mode && !f.mode.isTruncated

/-- Why a REPEAT may not govern an instruction, whatever the count; 44 R315 does not say whether a skipped one is
meant too (log 19, 46). -/
def repeatRefusal (i : Instr) (s : State) : Option Refusal :=
  if notRepeatable i then some .repeatBeforeControl
  else if (fieldsBeforeFault i.fields).any fun f => modeUses (Ps.repReg s.ps) f.mode then some .repeatCountUsed
  else if (Ps.rep s.ps).getLsbD 1 && usesFloatUnit i then some .repeatBeforeFpUnit
  else none

/-! ### The pre-test (44 R311) -/

/-- Whether the repetition ends: the Z condition is checked before the count (44 R311). -/
def repeatEnds (s : State) : Bool :=
  (Ps.rep s.ps == 2 && !Ps.z s.ps) || (Ps.rep s.ps == 3 && Ps.z s.ps)
    || s.reg (Ps.repReg s.ps) == 0

/-- The fault met while the fields of a skipped instruction are measured (44 R311, 30 R123; log 18). -/
def measureFault : List Field → Option Nat
  | [] => none
  | f :: fs =>
    if modeIllegal f.access f.mode then some 16
    else if f.mode.isTruncated then some 11
    else measureFault fs

/-- The fetches of the fields of a skipped instruction, up to the fault (44 R311, 30 R123; log 2). -/
def fetchFields : List Field → State → Res Unit
  | [], s => .ok () s
  | f :: fs, s =>
    (fetchField f.access f.mode s).bind fun _ t =>
    if modeIllegal f.access f.mode || f.mode.isTruncated then .ok () t else fetchFields fs t

/-- Skip an instruction: PS.REP becomes 00 and its fields are only measured (44 R311). -/
def skipRepeated (i : Instr) (s : State) : Host.Outcome State Fault Refusal :=
  finish s <|
    (fetchFields i.fields { s with ps := Ps.withRep s.ps 0 }).bind fun _ t =>
    match measureFault i.fields with
    | some n => .exc n t
    | none => .ok () (t.advance i.length)

/-- Begin an instruction while PS.REP is not 00: the pre-test, and then the instruction with the count
decremented (44 R311). -/
def runRepeated (i : Instr) (s : State) : Host.Outcome State Fault Refusal :=
  match repeatRefusal i s with
  | some r => .refused r
  | none =>
    if repeatEnds s then skipRepeated i s
    else exec i (s.setReg (Ps.repReg s.ps) (s.reg (Ps.repReg s.ps) - 1))

/-- RES and ESC fault before the pre-test (30 R116 step 2, 44 R311). -/
def isUnimplemented (i : Instr) : Bool :=
  match i with
  | .res _ | .esc _ => true
  | _ => false

/-- Begin an instruction: the pre-test if a REPEAT is in force (30 R116 step 2). -/
def begin (i : Instr) (s : State) : Host.Outcome State Fault Refusal :=
  if Ps.rep s.ps ≠ 0 && !isUnimplemented i then runRepeated i s else exec i s

end Sys2Proof.Machine
end

