-- ==== Sys2Proof/Machine/Fetch.lean ====
section
/-! DEFINITION. Fetching and decoding the instruction at pc (30 R90, R123, 20 R64, R76, 70 R463), and
placing an instruction where it is fetched next. -/

namespace Sys2Proof.Machine

/-- The bytes of memory from address a on, at most n, ending with the last byte of memory. -/
def codeBytes (m : Memory) : Nat → Nat → List Byte
  | _, 0 => []
  | a, n + 1 => if a < memoryBytes then m.get a :: codeBytes m (a + 1) n else []

/-- The bytes at pc: of the shadow ROM while it is active, of memory otherwise (70 R463). -/
def State.fetchBytes (s : State) : List Byte :=
  if s.romActive then shadowRom.drop s.pc.toNat else codeBytes s.mem s.pc.toNat maxInstrBytes

/-- Whether one of the n bytes at pc has been stored to since the last taken transfer of control
(20 R76, 93 U20; log 15). -/
def State.staleCode (s : State) (n : Nat) : Bool :=
  s.storedSince s.pc.toNat n

/-- The fetch of the opcode byte at pc, as an access to memory (30 R116 step 1, R123). -/
def fetchOpcode (s : State) : Res Unit := fetchAccess s.pc.toNat 1 s

/-- Execute the instruction i found at pc: its opcode byte is fetched, the rest of it as its fields are evaluated.
DESIGN CHOICE: all the bytes of the decoded instruction are its bytes for the refusal of 93 U20, those after an illegal
field too, which the illegal form (30 R114) never comes to fetch; 20 R76 and 92 D8 do not speak of them (log 15). -/
def runFetched (i : Instr) (s : State) : Host.Outcome State Fault Refusal :=
  if s.staleCode i.length then .refused .staleInstructionBytes
  else
    match fetchOpcode s with
    | .ok _ t => begin i t
    | .exc n t => finish s (.exc n t)
    | .refused r => .refused r

/-- Fetch, decode and execute the instruction at pc. Where the bytes end too early the fields that are
there are evaluated first (30 R123); an opcode byte outside memory is an Address Error (20 R64). -/
def runAtPc (s : State) : Host.Outcome State Fault Refusal :=
  match decode s.fetchBytes with
  | .ok (i, _) => runFetched i s
  | .error (.truncatedField i) =>
    if s.romActive then .fault .fetchOutsideShadowRom else runFetched i s
  | .error .noOpcode =>
    if s.romActive then .fault .fetchOutsideShadowRom else finish s (.exc 11 s)

/-- Store bytes from address a on, lowest first. -/
def storeBytes (m : Memory) : Nat → List Byte → Memory
  | _, [] => m
  | a, b :: bs => storeBytes (m.set a b) (a + 1) bs

end Sys2Proof.Machine
end

