-- ==== Sys2Proof/Machine/Abandon.lean ====
section
/-! DEFINITION. Uncorrectable ECC errors (60 R419, 93 U3; log 21): everything the abandoned
instruction could have written is a free value, and interrupt 15 is pending. -/

namespace Sys2Proof.Machine

/-! ### What an instruction could have written (60 R419, 93 U3) -/

/-- What the address fields of an instruction write, up to the first that faults: general registers; bytes of the
destination, as ranges; whether SP; whether all fields are evaluated, and whether the destination can be stored. -/
structure Touched where
  regs : List Reg := []
  ranges : List (Nat × Nat) := []
  sp : Bool := false
  evaluated : Bool := true
  storable : Bool := true
  deriving DecidableEq, Repr

/-- What one field writes, and then the next ones. -/
def Touched.followedBy (w v : Touched) : Touched :=
  { regs := w.regs ++ v.regs
    ranges := w.ranges ++ v.ranges
    sp := w.sp || v.sp
    evaluated := w.evaluated && v.evaluated
    storable := w.storable && v.storable }

/-- Evaluate an address field as its instruction does, after the first field if it is the second: the state, and the
place that the instruction then writes, if it writes one (30 R116 steps 3 and 4). -/
def evaluateField (sp0 : Word) (first : Option Field) (f : Field) (s : State) : Res (Option Place) :=
  match f.access, first with
  | .w, _ => (openWritten sp0 f.mode s).bind fun p t => .ok (some p) t
  | .rw, _ => (openModified sp0 f.mode s).bind fun vp t => .ok (some vp.2) t
  | .a, _ => (locateField .a sp0 f.mode s).bind fun _ t => .ok none (stepRegister f.mode t)
  | .reg, _ => (locateField .reg sp0 f.mode s).bind fun _ t => .ok none t
  | .r, some g => (readSecond sp0 g.mode f.mode s).bind fun _ t => .ok none t
  | .r, none | .v, _ => (readField sp0 f.mode s).bind fun _ t => .ok none t

/-- The registers that a mode steps: all of them when the field is evaluated, and before an Address Error of its operand
only by Autodecrement (30 R102 to R105). -/
def steppedRegisters {t : OpType} (faulted : Bool) (m : Mode t) : List Reg :=
  match m with
  | .autodec r => [r]
  | .autoskip r | .autoinc r | .autoincInd r => if faulted then [] else [r]
  | _ => []

/-- What the write of a destination of type t at a place writes; nothing where it is outside memory (20 R64). -/
def destinationTouched (t : OpType) (p : Option Place) : Touched :=
  match p with
  | some (.reg r) => { regs := if t = .long then [r, r + 1] else [r] }
  | some (.mem a) => if inMemory a t.len then { ranges := [(a.toNat, t.len)] } else { storable := false }
  | _ => {}

/-- What a field writes, with its destination, and the state after its evaluation. An illegal field writes nothing (30
R114). -/
def fieldTouched (sp0 : Word) (first : Option Field) (f : Field) (s : State) : Res Touched :=
  match evaluateField sp0 first f s with
  | .ok p t =>
    .ok (Touched.followedBy { regs := steppedRegisters false f.mode, sp := t.sp != s.sp }
      (destinationTouched f.type p)) t
  | .exc n t =>
    .ok { regs := if n = 16 then [] else steppedRegisters true f.mode
          sp := t.sp != s.sp
          evaluated := false } t
  | .refused r => .refused r

/-- What the fields of an instruction write, up to the first that faults, and the state after them (60 R431). -/
def fieldsTouched (sp0 : Word) (first : Option Field) : List Field → State → Res Touched
  | [], s => .ok {} s
  | f :: fs, s =>
    (fieldTouched sp0 first f s).bind fun w t =>
    if w.evaluated then (fieldsTouched sp0 (some f) fs t).bind fun v u => .ok (w.followedBy v) u
    else .ok w t

/-- The Words that an instruction pushes besides its operands, from an SP on: each lies below the one before, and the
first that is outside memory ends them (44 R305, 45 R342, R343, 20 R64). -/
def pushedWords (i : Instr) (sp : Word) : List (Nat × Nat) :=
  let count := match i with
    | .call _ => 1
    | .trap _ | .bkpt => 2
    | _ => 0
  (((List.range count).map fun j => sp - BitVec.ofNat 32 (4 * (j + 1))).takeWhile (inMemory · 4)).map
    fun a => (a.toNat, 4)

/-- Whether an instruction writes SP besides its operands: a push moves it first, a pop only where it can be made (44
R305 to R307, 45 R333, R335, R342, R343). -/
def movesSp (i : Instr) (sp : Word) : Bool :=
  match i with
  | .call _ | .trap _ | .bkpt => true
  | .ret | .retp _ | .reti | .rett => inMemory sp 4
  | _ => false

/-- Whether the pushes and pops that an instruction makes besides its operands all lie in memory (20 R64). -/
def stackInside (i : Instr) (sp : Word) : Bool :=
  match i with
  | .call _ => inMemory (sp - 4) 4
  | .ret | .retp _ => inMemory sp 4
  | .reti | .rett => inMemory sp 4 && inMemory (sp + 4) 4
  | .trap _ | .bkpt => inMemory (sp - 4) 4 && inMemory (sp - 8) 4
  | _ => true

/-- The instructions that clear PS.REP instead of repeating (44 R313). -/
def isTransfer (i : Instr) : Bool :=
  match i with
  | .bv _ | .bnv _ | .be _ | .bne _ | .bg _ | .bge _ | .bl _ | .ble _ | .bgu _ | .bgeu _ | .blu _ | .bleu _ | .jmp _
  | .call _ | .ret | .retp _ => true
  | _ => false

/-- The bits of PS that an instruction writes when it comes to its end, ps being PS as it begins: C, V, Z, N and U; the
same without C; the floating-point flags too; and those of the control instructions (the Flags of 40 to 45). LDPR is
left to the register it names. -/
def statusBits (i : Instr) (ps : Word) : Word :=
  match i with
  | .addb _ _ | .addh _ _ | .addw _ _ | .adcb _ _ | .adch _ _ | .adcw _ _ | .subb _ _ | .subh _ _ | .subw _ _
  | .sbbb _ _ | .sbbh _ _ | .sbbw _ _ | .sbrb _ _ | .sbrh _ _ | .sbrw _ _ | .negb _ _ | .negh _ _ | .negw _ _
  | .cmpb _ _ | .cmph _ _ | .cmpw _ _ | .adcd _ _ | .sbbd _ _ | .sftb _ _ | .sfth _ _ | .sftw _ _ | .sfab _ _
  | .sfah _ _ | .sfaw _ _ | .rotb _ _ | .roth _ _ | .rotw _ _ => 0x0000001F
  | .mulb _ _ | .mulh _ _ | .mulw _ _ | .divb _ _ | .divh _ _ | .divw _ _ | .dvrb _ _ | .dvrh _ _ | .dvrw _ _
  | .remb _ _ | .remh _ _ | .remw _ _ | .andb _ _ | .andh _ _ | .andw _ _ | .orb _ _ | .orh _ _ | .orw _ _
  | .xorb _ _ | .xorh _ _ | .xorw _ _ | .notb _ _ | .noth _ _ | .notw _ _ | .bitb _ _ | .bith _ _ | .bitw _ _
  | .ffob _ _ | .ffoh _ _ | .ffow _ _ | .stpr _ _ => 0x0000001E
  | .cvbw _ _ | .cvhw _ _ | .cvwb _ _ | .cvwh _ _ => 0x000003FE
  | .cvbr _ _ | .cvhr _ _ | .cvbl _ _ | .cvhl _ _ | .cvwl _ _ | .cvrl _ _ | .cvlr _ _ | .addr _ _ | .addl _ _
  | .subr _ _ | .subl _ _ | .sbrr _ _ | .sbrl _ _ | .mulr _ _ | .mull _ _ | .divr _ _ | .divl _ _ | .dvrr _ _
  | .dvrl _ _ | .remr _ _ | .reml _ _ | .sqtr _ _ | .sqtl _ _ | .negr _ _ | .negl _ _ | .sgnr _ _ | .sgnl _ _
  | .cmpr _ _ | .cmpl _ _ => 0x000003FF
  | .clc | .stc | .cmc => 0x00000001
  | .ei | .di => 0x00100000
  | .rep _ => 0xFC000000
  | .repz _ | .repnz _ => 0xFC000004
  | .bg _ | .bge _ | .bl _ | .ble _ => if Ps.u ps then 0x00000200 else 0
  | .reti | .rett => 0xFF3F87FF
  | .trap _ | .bkpt => 0x3F3F87FF
  | .movb _ _ | .movh _ _ | .movw _ _ | .movr _ _ | .movl _ _ | .mova _ _ | .bv _ | .bnv _ | .be _ | .bne _ | .bgu _
  | .bgeu _ | .blu _ | .bleu _ | .jmp _ | .call _ | .ret | .retp _ | .nop | .eron | .erof | .wait | .rset | .ldpr _ _
  | .lptr _ _ | .lcnt _ _ | .bptr _ _ | .bcnt _ _ | .res _ | .esc _ => 0

/-- The instructions that may raise Invalid, and write the flags for it, before they write a destination that they have
not read (42 R223, R224, 43 R250, R260). -/
def flagsBeforeStore (i : Instr) : Bool :=
  match i with
  | .sqtr _ _ | .sqtl _ _ | .cvrl _ _ | .cvlr _ _ => true
  | _ => false

/-- The bits of PS that the instruction i, executed from a PS, could have written, where its fields write w and leave
SP at sp: PS.REP by a transfer under a REPEAT, before its operand (log 17); the others where it comes to its end. -/
def psMask (i : Instr) (ps : Word) (w : Touched) (sp : Word) : Word :=
  (if isTransfer i && Ps.rep ps != 0 then 0xC0000000 else 0) |||
    (if w.evaluated && stackInside i sp && (w.storable || flagsBeforeStore i) then statusBits i ps else 0)

/-! ### Free values for it -/

/-- A free value for whatever `which` names. -/
def State.free (s : State) (which : Nat) : Word := Config.abandonedWord s.freeCount which

/-- Free values for the bytes of a range. -/
def scrambleBytes (s : State) (a : Nat) : Nat → State
  | 0 => s
  | n + 1 => scrambleBytes (s.store .other a 1 (Config.abandonedByte s.freeCount a).toNat) (a + 1) n

/-- Free values for the registers of a list. -/
def scrambleRegisters (s : State) : List Reg → State
  | [] => s
  | r :: rs => scrambleRegisters (s.setReg r (Config.abandonedRegister s.freeCount r)) rs

/-- The processor register that LDPR could have written becomes a free value, within the bits that LDPR
writes (45 R340). -/
def scrambleProcessorRegister (k : Byte) (s : State) : State :=
  let v := s.free 4
  match k.toNat with
  | 0 => { s with sp := v }
  | 1 => { s with ps := v &&& 0x3F3F87FF }
  | 3 => { s with cr := (s.cr &&& 0xFF000000) ||| (v &&& 0x00FFFFFF) }
  | 4 => { s with pi := (s.pi &&& 0x80000000) ||| (v &&& 0x7FFFFFFF) }
  | 5 => { s with tr := v }
  | 8 => { s with oe := v &&& portMask }
  | 9 => { s with ie := v &&& portMask }
  | _ => s

/-- The port registers that LPTR or LCNT could have written become free values. -/
def scramblePort (count : Bool) (n : Byte) (s : State) : State :=
  match portOfNumber n with
  | none => s
  | some (.input p) =>
    let q := s.inPorts.get p
    if count then
      ({ s with
          pe := setBit s.pe (portBit p) ((s.free 6).getLsbD 0)
          io := setBit s.io (portBit p) ((s.free 6).getLsbD 1) }).setInPort p
        { q with
          count := evenPart (s.free 5)
          parityNoted := (s.free 6).getLsbD 2
          overrunNoted := (s.free 6).getLsbD 3 }
    else s.setInPort p { q with addr := evenPart (s.free 5) }
  | some (.output p) =>
    let q := s.outPorts.get p
    s.setOutPort p (if count then { q with count := evenPart (s.free 5) }
      else { q with addr := evenPart (s.free 5) })

/-- The port registers that BPTR or BCNT could have written become free values, each port's on its own, and after BCNT
the broadcast record too. -/
def scrambleSelected (count : Bool) (m : Word) (s : State) : State :=
  { s with
    outPorts := Vector.ofFn fun p : PortIx =>
      let q := s.outPorts.get p
      if !selects m p then q
      else if count then { q with count := evenPart (s.free (200 + p.val)) }
      else { q with addr := evenPart (s.free (200 + p.val)) }
    broadcast :=
      if !count then s.broadcast
      else if (s.free 6).getLsbD 0 then some (s.free 5 &&& portMask) else none }

/-- The port registers, notes and latches that RSET could have cleared become free values, each on its own
(45 R345). -/
def scramblePorts (s : State) : State :=
  let v (j : Nat) : Word := s.free (100 + j)
  { s with
    inPorts := Vector.ofFn fun p : PortIx =>
      { addr := evenPart (v (8 * p.val))
        count := evenPart (v (8 * p.val + 1))
        latch := if (v (8 * p.val + 2)).getLsbD 16 then some ((v (8 * p.val + 2)).extractLsb' 0 16) else none
        parityNoted := (v (8 * p.val + 2)).getLsbD 17
        overrunNoted := (v (8 * p.val + 2)).getLsbD 18 }
    outPorts := Vector.ofFn fun p : PortIx =>
      { addr := evenPart (v (8 * p.val + 3))
        count := evenPart (v (8 * p.val + 4))
        link := if (v (8 * p.val + 5)).getLsbD 16 then some ((v (8 * p.val + 5)).extractLsb' 0 16) else none }
    broadcast := if (v 100).getLsbD 10 then some (v 100 &&& portMask) else none
    oe := v 101 &&& portMask
    ie := v 102 &&& portMask
    pe := v 103 &&& portMask
    io := v 104 &&& portMask
    cePending := (v 105).getLsbD 0
    uePending := (v 105).getLsbD 1 }

/-- Free values for what an instruction that began in s0 could have written besides general registers, memory, SP
and PS. -/
def scrambleSpecial (i : Instr) (s0 s : State) : State :=
  let second {t : OpType} (src : Mode .word) (des : Mode t) (f : BitVec t.bits → State → State) : State :=
    match (readField s0.sp src s0).bind fun _ s1 => readField s0.sp des s1 with
    | .ok k _ => f k s
    | _ => s
  match i with
  | .ldpr src des => second src des scrambleProcessorRegister
  | .lptr src des => second src des (scramblePort false)
  | .lcnt src des => second src des (scramblePort true)
  | .bptr src des => second src des (scrambleSelected false)
  | .bcnt src des => second src des (scrambleSelected true)
  | .eron | .erof => { s with errorFlag := (s.free 6).getLsbD 0 }
  | .reti => if stackInside .reti s0.sp then { s with ueMarker := (s.free 6).getLsbD 0 } else s
  | .rset => scramblePorts s
  | i => if i.fields.any (fun f => f.type.isFp) then { s with fr := s.free 3 } else s

/-- Free values for the bits of PS of a mask. -/
def scramblePs (which : Nat) (mask : Word) (s : State) : State :=
  { s with ps := (s.ps &&& ~~~mask) ||| (s.free which &&& mask) }

/-- The instruction i, executed in s, is abandoned: its fields are evaluated, with the moves of other agents that fall
between their accesses, and whatever it could have written is a free value; under a REPEAT the count is (60 R419, 93 U3,
44 R311; log 21). RES and ESC write nothing (30 R96, R97). -/
def abandonedExecution (i : Instr) (s : State) : Res Unit :=
  if isUnimplemented i then .ok () s
  else
    (fieldsTouched s.sp none i.fields s).bind fun w s1 =>
    let s2 := (w.ranges ++ if w.evaluated then pushedWords i s1.sp else []).foldl
      (fun t r => scrambleBytes t r.1 r.2) s1
    let s3 := scrambleRegisters s2 (w.regs ++ if Ps.rep s.ps = 0 then [] else [Ps.repReg s.ps])
    let s4 : State := { s3 with sp := if w.sp || (w.evaluated && movesSp i s1.sp) then s.free 1 else s3.sp }
    let s5 := scramblePs 2 (psMask i s.ps w s1.sp) s4
    .ok () (if w.evaluated then scrambleSpecial i s s5 else s5)

/-- The skip of the instruction i, whose repetition ends in s, is abandoned: its fields are fetched, and all that the
skip could have written is PS.REP (44 R311; 60 R419, 93 U3; log 21). -/
def abandonedSkip (i : Instr) (s : State) : Res Unit :=
  (fetchFields i.fields s).bind fun _ t => .ok () (scramblePs 2 0xC0000000 t)

/-- The instruction i, begun in s, is abandoned: skipped where the pre-test of a REPEAT ends the repetition, else
executed (30 R116 step 2, 44 R311; 60 R419, 93 U3; log 21). -/
def abandoned (i : Instr) (s : State) : Res Unit :=
  if Ps.rep s.ps ≠ 0 && !isUnimplemented i && repeatEnds s then abandonedSkip i s
  else abandonedExecution i s

/-- Whether an earlier uncorrectable error is not handled yet: its interrupt 15 is pending, or no RETI has ended it
(10 R42, 60 R419). -/
def State.unserviced (s : State) : Bool := s.ueMarker || s.uePending

/-- An uncorrectable error is noted: interrupt 15 is pending, the PC that the next entry saves is a free value, and
ERROR is set if an earlier error was not handled when this one occurred (60 R402 step 4, R419, R446, 93 U3; log 21).
-/
def State.noteUncorrectable (s : State) (again : Bool) : State :=
  { s with
    pc := s.free 0
    uePending := true
    errorFlag := s.errorFlag || again
    freeCount := s.freeCount + 1 }

/-- A turn of a processor in the state s0 that only enters interrupts, and meets an uncorrectable error in doing so:
the entry is complete, and 15 is pending after it. DESIGN CHOICE: 60 R419 speaks of an abandoned instruction only
(log 21). -/
def errorInEntry (s0 : State) (entered : Host.Outcome State Fault Refusal) : Host.Outcome State Fault Refusal :=
  match entered with
  | .next t => .next (if t.stuck then t else t.noteUncorrectable s0.unserviced)
  | o => o

/-- The instruction i at pc is abandoned, unless its bytes are stale, all the decoded ones being its own as for
`runFetched` (DESIGN CHOICE, log 15). DESIGN CHOICE: it ends there, so that no Stack
Overflow is entered for an SP that it could have taken below 2048; 60 R402 looks at SP (step 2) before the pending 15
(step 4), and R419 and 93 U3 do not say whether an abandoned instruction comes to step 2 (log 44). -/
def abandonFetched (i : Instr) (s : State) : Host.Outcome State Fault Refusal :=
  if s.staleCode i.length then .refused .staleInstructionBytes
  else
    match (fetchOpcode s).bind fun _ t => abandoned i t with
    | .ok _ t => .next (t.noteUncorrectable s.unserviced)
    | .exc _ t => .next (t.noteUncorrectable s.unserviced)
    | .refused r => .refused r

/-- The instruction at pc meets an uncorrectable error. An opcode byte outside memory is not read, so that the error
can only be in the entry of its Address Error (20 R64; log 49). -/
def abandonAtPc (s : State) : Host.Outcome State Fault Refusal :=
  match decode s.fetchBytes with
  | .ok (i, _) => abandonFetched i s
  | .error (.truncatedField i) => abandonFetched i s
  | .error .noOpcode => errorInEntry s (runAtPc s)

end Sys2Proof.Machine
end

