-- ==== Sys2Proof/Machine/Interrupts.lean ====
section
/-! DEFINITION. Which interrupt is taken at an instruction boundary (60 R402, R409, R420 to R425) and
taking it. -/

namespace Sys2Proof.Machine

/-- Output Ready of a port: a level, gated by its OE bit, PS.IO and PS.IE (60 R422, 46 R372). -/
def outputInterrupt (s : State) (p : PortIx) : Bool :=
  (s.outPorts.get p).count == 0 && s.oe.getLsbD (portBit p) && Ps.io s.ps && Ps.ie s.ps

/-- Whether an input port shows an error (60 R422). -/
def inputError (s : State) (p : PortIx) : Bool :=
  s.pe.getLsbD (portBit p) || s.io.getLsbD (portBit p)

/-- Input Ready or Input Error of a port: a level, gated by its IE bit, PS.II and PS.IE (60 R422,
46 R376, R380). -/
def inputInterrupt (s : State) (error : Bool) (p : PortIx) : Bool :=
  (s.inPorts.get p).count == 0 && inputError s p == error && s.ie.getLsbD (portBit p)
    && Ps.ii s.ps && Ps.ie s.ps

/-- Whether interrupt n is deliverable at a boundary: 15 once an uncorrectable error has been noted, Trace if an
instruction has completed, the others by their conditions and enables (60 R402 steps 4 to 6, R403, R409, R419, R420,
46 R381; log 32). -/
def deliverable (s : State) (n : Nat) : Bool :=
  if n = 15 then s.uePending
  else if n = 1 then s.traceDue && Ps.t s.ps && Ps.ie s.ps
  else if n = 13 then s.tr == 0 && Ps.to s.ps && Ps.ie s.ps
  else if n = 14 then s.cePending && Ps.ce s.ps && Ps.ie s.ps
  else if n < 64 then
    match portOfNumber (BitVec.ofNat 8 n) with
    | some (.output p) => outputInterrupt s p
    | _ => false
  else
    match portOfNumber (BitVec.ofNat 8 (n % 32)) with
    | some (.input p) => inputInterrupt s (decide (96 ≤ n)) p
    | _ => false

/-- The interrupts that are taken at boundaries, in the order of 60 R402 steps 4 to 6, which decides between equal
ranks (log 11). -/
def boundaryInterrupts : List Nat :=
  [15, 1, 13, 14] ++ (List.range 10).map (32 + ·) ++ [63] ++ (List.range 10).map (64 + ·) ++ [95]
    ++ (List.range 10).map (96 + ·) ++ [127]

/-- The interrupts deliverable before the next instruction: none while the shadow ROM is active or right after RETT
(60 R402 step 3). -/
def State.candidates (s : State) : List Nat :=
  if s.romActive || s.inhibit then [] else boundaryInterrupts.filter (deliverable s)

/-- The first number of a list among those of the smallest rank. -/
def leastRank (rank : Nat → Nat) (ns : List Nat) : Option Nat :=
  ns.foldl (fun best n =>
    match best with
    | none => some n
    | some b => some (if rank n < rank b then n else b)) none

/-- The interrupt to take before the next instruction, by the parameter INTERRUPT_PRIORITY (60 R402; log 11). -/
def State.nextInterrupt (s : State) : Option Nat := leastRank Config.interruptPriority s.candidates

/-- Take an interrupt at an instruction boundary: the address of the next instruction is saved (60 R405); taking 14
clears its condition (60 R424), taking 15 sets the marker of an unserviced error (60 R419). -/
def takeInterrupt (n : Nat) (s : State) : Host.Outcome State Fault Refusal :=
  enter n s.pc { s with
    cePending := s.cePending && n != 14
    uePending := s.uePending && n != 15
    ueMarker := s.ueMarker || n == 15 }

end Sys2Proof.Machine
end

