-- ==== Sys2Proof/Machine/Turn.lean ====
section
/-! DEFINITION. One turn of the processor: an interrupt at the boundary, an idle turn in WAIT, or one
instruction (60 R402, 45 R344; log 1, 32). -/

namespace Sys2Proof.Machine

/-- The state in which the instruction of this turn runs: the RETT inhibit has done its work (10 R41), the
free values of this instruction are new ones (log 3), the boundary after it is one for Trace (log 32), and an error
corrected during it is pending when it ends (60 R418, R424). DESIGN CHOICE: it is pending from the instruction's
beginning on, so that RSET clears one that is corrected during RSET itself (10 R40; log 43). -/
def State.prepared (s : State) (corrected : Bool) : State :=
  { s with
    inhibit := false
    traceDue := true
    freeCount := s.freeCount + 1
    cePending := s.cePending || (corrected && !s.romActive) }

/-- An error is corrected within an interrupt entry that no instruction of this turn raises: 14 is pending after it
(60 R418, R424; log 21). -/
def correctedInEntry (entered : Host.Outcome State Fault Refusal) : Host.Outcome State Fault Refusal :=
  match entered with
  | .next t => .next (if t.stuck then t else { t with cePending := true })
  | o => o

/-- Whether an access of the turn meets an uncorrectable error, which is the last access of the instruction (20 R70, 60
R419). -/
def uncorrectableIn (eccs : List Ecc) : Bool := eccs.contains .uncorrectable

/-- Whether an error is corrected in an access of the turn: in one that comes before any uncorrectable error (20 R70, 60
R418). -/
def correctedIn : List Ecc → Bool
  | [] | .uncorrectable :: _ => false
  | .corrected :: _ => true
  | .clean :: es => correctedIn es

/-- The turn of a processor that is not stuck, with the ECC outcomes of its memory accesses: 14 is pending after one
that was corrected, 15 after one that was not correctable, both after both (60 R418, R419, R424). Errors are
ignored while the shadow ROM runs (70 R464; log 21). DESIGN CHOICE: an uncorrectable error in the entry of an exception
that the instruction raises, or of its Stack Overflow, abandons the instruction as if that entry had not begun (log
49). -/
def activeTurn (eccs : List Ecc) (s : State) : Host.Outcome State Fault Refusal :=
  match s.nextInterrupt with
  | some n =>
    let entered := if correctedIn eccs then correctedInEntry (takeInterrupt n s) else takeInterrupt n s
    if uncorrectableIn eccs then errorInEntry s entered else entered
  | none =>
    if s.waiting then .next s
    else if uncorrectableIn eccs && !s.romActive then abandonAtPc (s.prepared (correctedIn eccs))
    else runAtPc (s.prepared (correctedIn eccs))

/-- The turn of the processor; a stuck one executes nothing (60 R407). -/
def processorTurn (eccs : List Ecc) (s : State) : Host.Outcome State Fault Refusal :=
  if s.stuck then .fault .stuck else activeTurn eccs s

/-- Put bytes where the next step fetches, and clear whatever would keep that step from executing them:
the shadow ROM, an idle or stuck processor, a REPEAT in force, a deliverable interrupt, other agents' moves
(log 9). A pc too near the end of memory becomes 1024, the entry of loaded programs (70 R466). -/
def State.withCode (s : State) (bs : List Byte) : State :=
  let start := if s.romActive || decide (memoryBytes < s.pc.toNat + bs.length) then 1024 else s.pc
  let t : State := { s with
    pc := start
    romActive := false
    mem := storeBytes s.mem start.toNat bs
    ps := Ps.withRep s.ps 0
    waiting := false
    stuck := false
    traceDue := false
    dirty := []
    schedule := [] }
  { t with inhibit := s.inhibit || !t.candidates.isEmpty }

end Sys2Proof.Machine
end

