-- ==== Sys2Proof/Machine/Step.lean ====
section
/-! DEFINITION. One step of the machine: the move of the agent that the schedule names, the processor
when it names none (log 1). -/

namespace Sys2Proof.Machine

/-- The move of another agent as a step; a stuck machine knows only the reset pin (60 R407, R445). -/
def moveTurn (m : Move) (s : State) : Host.Outcome State Fault Refusal :=
  if s.stuck then .fault .stuck
  else
    match agentMove m s with
    | .ok _ t => .next t
    | .exc _ t => .next t
    | .refused r => .refused r

/-- One step. -/
def step (s : State) : Host.Outcome State Fault Refusal :=
  match s.schedule with
  | [] => processorTurn [] { s with during := [] }
  | .processor eccs during :: rest => processorTurn eccs { s with schedule := rest, during := during }
  | .move m :: rest => moveTurn m { s with schedule := rest }
  | .resetPin :: rest => .next (stepReset { s with schedule := rest })

/-- The state with an instruction stored where step fetches next (log 9). -/
def State.withFetchWord (s : State) (nbits w : Nat) : State :=
  s.withCode (bytesOfNumber maxInstrBytes (w % 2 ^ nbits))

end Sys2Proof.Machine
end

