-- ==== Sys2Proof/Safety.lean ====
section
/-! DEFINITION. The terms that statements about the machine use: the invariant of its states, what a
safe run is, what an instruction may change, and the shapes in which instructions complete. -/

namespace Sys2Proof.Machine

/-! ### The invariant and safe runs -/

/-- What holds of every state: memory in its canonical form; the reserved bits of PS 0 (10 R20); the
read-only fields of CR and PI as manufactured (10 R23, R24); only bits of existing ports in the port registers
(10 R26); address and count registers even (46 R362); a broadcast of existing ports. -/
structure State.Inv (s : State) : Prop where
  memory : s.mem.wf = true
  status : s.ps &&& Ps.reservedMask = 0
  model : s.cr.extractLsb' 24 8 = Config.modelNumber
  board : s.pi.getLsbD 31 = Config.isIoNode
  outputEnable : s.oe &&& ~~~portMask = 0
  inputEnable : s.ie &&& ~~~portMask = 0
  parity : s.pe &&& ~~~portMask = 0
  overrun : s.io &&& ~~~portMask = 0
  inputs : ∀ p, (s.inPorts.get p).addr.getLsbD 0 = false ∧ (s.inPorts.get p).count.getLsbD 0 = false
  outputs : ∀ p, (s.outPorts.get p).addr.getLsbD 0 = false ∧ (s.outPorts.get p).count.getLsbD 0 = false
  broadcasts : ∀ m, s.broadcast = some m → m &&& ~~~portMask = 0

/-- A run of n steps is safe: every step goes on and none leaves the machine stuck (60 R407). -/
def safeFor : Nat → State → Prop
  | 0, _ => True
  | n + 1, s => ∃ t, step s = .next t ∧ t.stuck = false ∧ safeFor n t

/-! ### What an instruction may change -/

/-- The registers that an address field's own mode updates (30 R102 to R105). -/
def modeRegisters {t : OpType} : Mode t → List Reg
  | .autoskip r | .autoinc r | .autoincInd r | .autodec r => [r]
  | _ => []

/-- The registers of a written operand: two for a Longreal (10 R11). -/
def placeRegisters (t : OpType) : Place → List Reg
  | .reg n => if t = .long then [n, n + 1] else [n]
  | _ => []

/-- The bytes of a written operand: its length, from its address on. -/
def placeBytes (t : OpType) (p : Place) (x : Nat) : Bool :=
  match p with
  | .mem a => decide (a.toNat ≤ x) && decide (x < a.toNat + t.len)
  | _ => false

/-- What other agents may change too: memory but for the bytes that `bytes` names, TR, the ports and their error
bits, the broadcast, the loader's port, and the moves still to come. -/
structure State.SameAgents (bytes : Nat → Bool) (s t : State) : Prop where
  memory : ∀ x, bytes x = false → t.mem.get x = s.mem.get x
  tr : t.tr = s.tr
  pe : t.pe = s.pe
  io : t.io = s.io
  inPorts : t.inPorts = s.inPorts
  outPorts : t.outPorts = s.outPorts
  broadcast : t.broadcast = s.broadcast
  bootPort : t.bootPort = s.bootPort
  during : t.during = []

/-- t differs from s at most in the registers of a list, the bytes of memory that `bytes` names, the bits of
PS of a mask, SP if `stk` says so, PC, FR and the model's own records of stores; every other register, byte
and piece of state is the same. Where other agents move within the instruction, what they may change is left out. -/
structure State.SameBut (regs : List Reg) (bytes : Nat → Bool) (mask : Word) (stk : Bool) (s t : State) :
    Prop where
  registers : ∀ r, r ∉ regs → t.regs.get r = s.regs.get r
  sp : stk = false → t.sp = s.sp
  status : t.ps &&& ~~~mask = s.ps &&& ~~~mask
  cr : t.cr = s.cr
  pi : t.pi = s.pi
  oe : t.oe = s.oe
  ie : t.ie = s.ie
  errorFlag : t.errorFlag = s.errorFlag
  romActive : t.romActive = s.romActive
  inhibit : t.inhibit = s.inhibit
  ueMarker : t.ueMarker = s.ueMarker
  uePending : t.uePending = s.uePending
  cePending : t.cePending = s.cePending
  waiting : t.waiting = s.waiting
  stuck : t.stuck = s.stuck
  traceDue : t.traceDue = s.traceDue
  freeCount : t.freeCount = s.freeCount
  schedule : t.schedule = s.schedule
  agents : s.during = [] → State.SameAgents bytes s t

/-- The moves among the visits vs lead from s to t, one after another (20 R71). -/
def State.Moved : List Visit → State → State → Prop
  | [], s, t => s = t
  | .move m :: vs, s, t => ∃ u, agentMove m s = .ok () u ∧ State.Moved vs u t
  | .byte _ :: vs, s, t => State.Moved vs s t

/-- Memory holds no misaligned Real or Longreal that a floating-point instruction has stored (70 R481). -/
def State.Plain (s : State) : Prop := ∀ h ∈ s.written, h.misaligned = false

/-! ### Operands that can be read -/

/-- The two operands of an instruction that modifies its second one can be read: src gives a, then des gives
b at the place p, leaving s2 (30 R116). -/
def Modifies {t u : OpType} (src : Mode t) (des : Mode u) (s : State) (a : BitVec t.bits)
    (b : BitVec u.bits) (p : Place) (s2 : State) : Prop :=
  ∃ s1, readField s.sp src s = .ok a s1 ∧ openModified s.sp des s1 = .ok (b, p) s2

/-- The source of an instruction that only writes its second operand can be read: src gives a, then des
gives the place p, leaving s2 (30 R116). -/
def Writes {t u : OpType} (src : Mode t) (des : Mode u) (s : State) (a : BitVec t.bits) (p : Place)
    (s2 : State) : Prop :=
  ∃ s1, readField s.sp src s = .ok a s1 ∧ openWritten s.sp des s1 = .ok p s2

/-- The two operands of CMP or BIT can be read, leaving s2 (30 R116, R113 S2, S5). -/
def Compares {t u : OpType} (src : Mode t) (des : Mode u) (s : State) (a : BitVec t.bits)
    (b : BitVec u.bits) (s2 : State) : Prop :=
  ∃ s1, readField s.sp src s = .ok a s1 ∧ readSecond s.sp src des s1 = .ok b s2

/-- The two value operands of LDPR, LPTR, LCNT, BPTR or BCNT can be read, leaving s2 (30 R121). -/
def Values {t u : OpType} (src : Mode t) (des : Mode u) (s : State) (a : BitVec t.bits)
    (b : BitVec u.bits) (s2 : State) : Prop :=
  ∃ s1, readField s.sp src s = .ok a s1 ∧ readField s.sp des s1 = .ok b s2

/-! ### How instructions end -/

/-- The instruction i goes on from s to t, where t differs from s at most in what is listed; if that takes SP
below 2048, Stack Overflow is entered in t with the address of i saved (60 R402, R416). -/
def Continues (i : Instr) (s t : State) (regs : List Reg) (bytes : Nat → Bool) (mask : Word) (stk : Bool) :
    Prop :=
  State.SameBut regs bytes mask stk s t ∧
    (crossed s.sp t.sp = false → exec i s = .next t) ∧
    (crossed s.sp t.sp = true → s.stuck = false → exec i s = enterOnly 12 s.pc t)

/-- The instruction i raises exception n in the state t: it is entered with the address of i saved (60 R402,
R405). Where SP has become less than 2048 as well, see log 12. -/
def Raises (i : Instr) (n : Nat) (s t : State) : Prop :=
  crossed s.sp t.sp = false → exec i s = enter n s.pc t

/-! ### How the two-field instructions end -/

/-- A state with C, V, Z, N written and U cleared (40 R140). -/
def State.flagged (s : State) (c v z n : Bool) : State :=
  { s with ps := Ps.withCond s.ps c v z n false }

/-- The end of an integer instruction in the state t that holds its result and flags: the next
instruction; or interrupt 3 when V, PS.IV and PS.IE are all 1 (40 R154). -/
def EndsInteger (i : Instr) (s t : State) (v : Bool) (regs : List Reg) (bytes : Nat → Bool)
    (mask : Word) (stk : Bool) : Prop :=
  ((v && Ps.iv s.ps && Ps.ie s.ps) = false →
      Continues i s { t with pc := s.following i.length } regs bytes mask stk ∧ t.fr = s.fr) ∧
    ((v && Ps.iv s.ps && Ps.ie s.ps) = true → Raises i 3 s t)

/-- An instruction reads src and dsrc, stores `res`'s result at des and writes its flags. -/
def ModifiesInteger {t u : OpType} (mk : Mode t → Mode u → Instr)
    (res : Bool → BitVec t.bits → BitVec u.bits → AluResult u.bits) : Prop :=
  ∀ (src : Mode t) (des : Mode u) (s s2 s3 : State) (a : BitVec t.bits) (b : BitVec u.bits) (p : Place),
    Modifies src des s a b p s2 →
    writePlace u p (res (Ps.c s.ps) a b).des s2 = .ok () s3 →
    let r := res (Ps.c s.ps) a b
    EndsInteger (mk src des) s (s3.flagged r.c r.v r.z r.n) r.v
      (modeRegisters src ++ modeRegisters des ++ placeRegisters u p) (placeBytes u p) 0x1F
      (isStk src || isStk des)

/-- An instruction reads src, stores `res`'s result at des and writes its flags. -/
def WritesInteger {t u : OpType} (mk : Mode t → Mode u → Instr)
    (res : Bool → BitVec t.bits → AluResult u.bits) : Prop :=
  ∀ (src : Mode t) (des : Mode u) (s s2 s3 : State) (a : BitVec t.bits) (p : Place),
    Writes src des s a p s2 →
    writePlace u p (res (Ps.c s.ps) a).des s2 = .ok () s3 →
    let r := res (Ps.c s.ps) a
    EndsInteger (mk src des) s (s3.flagged r.c r.v r.z r.n) r.v
      (modeRegisters src ++ modeRegisters des ++ placeRegisters u p) (placeBytes u p) 0x1F
      (isStk src || isStk des)

/-- An instruction reads both operands and writes only the flags that `res` gives. -/
def ComparesInteger {t u : OpType} (mk : Mode t → Mode u → Instr)
    (res : Bool → BitVec t.bits → BitVec u.bits → AluResult u.bits) : Prop :=
  ∀ (src : Mode t) (des : Mode u) (s s2 : State) (a : BitVec t.bits) (b : BitVec u.bits),
    Compares src des s a b s2 →
    let r := res (Ps.c s.ps) a b
    EndsInteger (mk src des) s (s2.flagged r.c r.v r.z r.n) false
      (modeRegisters src ++ modeRegisters des) (fun _ => false) 0x1F (isStk src || isStk des)

/-- A division or remainder: `res` gives no result for a zero divisor; then nothing is stored, no flag
changes and interrupt 4 is taken (40 R155). -/
def DividesInteger {t u : OpType} (mk : Mode t → Mode u → Instr)
    (res : Bool → BitVec t.bits → BitVec u.bits → Option (AluResult u.bits)) : Prop :=
  ∀ (src : Mode t) (des : Mode u) (s s2 : State) (a : BitVec t.bits) (b : BitVec u.bits) (p : Place),
    Modifies src des s a b p s2 →
    (∀ r s3, res (Ps.c s.ps) a b = some r →
      writePlace u p r.des s2 = .ok () s3 →
      EndsInteger (mk src des) s (s3.flagged r.c r.v r.z r.n) r.v
        (modeRegisters src ++ modeRegisters des ++ placeRegisters u p) (placeBytes u p) 0x1F
        (isStk src || isStk des)) ∧
    (res (Ps.c s.ps) a b = none →
      Raises (mk src des) 4 s s2 ∧
        State.SameBut (modeRegisters src ++ modeRegisters des) (fun _ => false) 0
          (isStk src || isStk des) s s2)

/-- A conversion to an integer: as WritesInteger, with IX, UF, FZ, OF and IN written 0 (42 R213). -/
def ConvertsInteger {t u : OpType} (mk : Mode t → Mode u → Instr)
    (res : Bool → BitVec t.bits → AluResult u.bits) : Prop :=
  ∀ (src : Mode t) (des : Mode u) (s s2 s3 : State) (a : BitVec t.bits) (p : Place),
    Writes src des s a p s2 →
    writePlace u p (res (Ps.c s.ps) a).des s2 = .ok () s3 →
    let r := res (Ps.c s.ps) a
    EndsInteger (mk src des) s
      { s3 with ps := Ps.withFp (Ps.withCond s.ps r.c r.v r.z r.n false) false false false false false }
      r.v (modeRegisters src ++ modeRegisters des ++ placeRegisters u p) (placeBytes u p) 0x3FF
      (isStk src || isStk des)

/-- An instruction copies src to des and writes no flag; FR becomes `fr` of the state and the value. -/
def Copies {t : OpType} (mk : Mode t → Mode t → Instr) (fr : State → BitVec t.bits → Word) : Prop :=
  ∀ (src des : Mode t) (s s2 s3 : State) (a : BitVec t.bits) (p : Place),
    Writes src des s a p s2 →
    writePlace t p a { s2 with fr := fr s a } = .ok () s3 →
    Continues (mk src des) s { s3 with pc := s.following (mk src des).length }
        (modeRegisters src ++ modeRegisters des ++ placeRegisters t p) (placeBytes t p) 0
        (isStk src || isStk des) ∧
      s3.fr = fr s a

/-- The end of a floating-point instruction with the result r, from the state s2 in which its operands
are read and FR is written: Invalid and Zero Divide store nothing; otherwise the result is stored, the flags
written, and Overflow, Underflow or an enabled Inexact interrupts; else the next instruction (43 R248,
R250). -/
def EndsFloat (i : Instr) (t : OpType) (p : Place) (r : FpResult) (regs : List Reg) (stk : Bool)
    (s s2 : State) : Prop :=
  match r with
  | .invalid =>
    Raises i 9 s { s2 with
      ps := Ps.withFp (Ps.withCond s.ps (Ps.c s.ps) false (Ps.z s.ps) (Ps.n s.ps) false)
        false false false false true }
  | .zeroDivide =>
    Raises i 7 s { s2 with
      ps := Ps.withFp (Ps.withCond s.ps (Ps.c s.ps) false (Ps.z s.ps) (Ps.n s.ps) false)
        false false true false false }
  | .value bits n z ix uf ovf =>
    ∀ s3, writePlace t p (BitVec.ofNat t.bits bits) s2 = .ok () s3 →
      let u : State := { s3 with
        ps := Ps.withFp (Ps.withCond s.ps n false z n false) ix uf false ovf false }
      (ovf = true → Raises i 8 s u) ∧
      (ovf = false → uf = true → Raises i 6 s u) ∧
      (ovf = false → uf = false → (ix && Ps.iix s.ps && Ps.ie s.ps) = true → Raises i 5 s u) ∧
      (ovf = false → uf = false → (ix && Ps.iix s.ps && Ps.ie s.ps) = false →
        Continues i s { u with pc := s.following i.length } regs (placeBytes t p) 0x3FF stk ∧
          u.fr = s2.fr)

/-- A floating-point instruction over two operands with the operation `op` of PS.RC, the draw number and the
operands; FR describes both (43 R252). -/
def ModifiesFloat {t : OpType} (mk : Mode t → Mode t → Instr)
    (op : BitVec 2 → Nat → Nat → Nat → FpResult) : Prop :=
  ∀ (src des : Mode t) (s s2 : State) (a b : BitVec t.bits) (p : Place),
    Modifies src des s a b p s2 →
    EndsFloat (mk src des) t p (op (Ps.rc s.ps) s.freeCount a.toNat b.toNat)
      (modeRegisters src ++ modeRegisters des ++ placeRegisters t p) (isStk src || isStk des) s
      { s2 with fr := faultTwo (fpFormat t) s.freeCount a.toNat b.toNat }

/-- A floating-point instruction with one source of type t and a written destination of type u; FR becomes
`fr` of the draw number and the source. -/
def WritesFloat {t u : OpType} (mk : Mode t → Mode u → Instr)
    (op : BitVec 2 → Nat → BitVec t.bits → FpResult) (fr : Nat → BitVec t.bits → Word) : Prop :=
  ∀ (src : Mode t) (des : Mode u) (s s2 : State) (a : BitVec t.bits) (p : Place),
    Writes src des s a p s2 →
    EndsFloat (mk src des) u p (op (Ps.rc s.ps) s.freeCount a)
      (modeRegisters src ++ modeRegisters des ++ placeRegisters u p) (isStk src || isStk des) s
      { s2 with fr := fr s.freeCount a }

/-- A floating-point comparison: `flags` gives C, Z, N and U of the operands; V and the floating-point
exception flags become 0, FR describes both operands, no exception is raised (43 R263, R252). -/
def ComparesFloat {t : OpType} (mk : Mode t → Mode t → Instr)
    (flags : Nat → Nat → Bool × Bool × Bool × Bool) : Prop :=
  ∀ (src des : Mode t) (s s2 : State) (a b : BitVec t.bits),
    Compares src des s a b s2 →
    let (c, z, n, u) := flags a.toNat b.toNat
    Continues (mk src des) s
      { s2 with
        fr := faultTwo (fpFormat t) s.freeCount a.toNat b.toNat
        ps := Ps.withFp (Ps.withCond s.ps c false z n u) false false false false false
        pc := s.following (mk src des).length }
      (modeRegisters src ++ modeRegisters des) (fun _ => false) 0x3FF (isStk src || isStk des)

/-! ### Values and rounding of floating-point patterns (43 R240, R241, R244, R248) -/

/-- The exact value of a finite pattern (43 R240 cases 1 and 2). -/
def FpFormat.val (f : FpFormat) (x : Nat) : Rat :=
  (if f.sign x then -1 else 1) * (f.mant x : Rat) * (2 : Rat) ^ f.scale x

/-- Neither Nan nor infinity. -/
def FpFormat.isFinite (f : FpFormat) (x : Nat) : Bool := f.exp x != f.maxExp

/-- The number with significand m, of one bit more than the fraction, and exponent e. -/
def FpFormat.gridValue (f : FpFormat) (m : Nat) (e : Int) : Rat := (m : Rat) * (2 : Rat) ^ (e - f.fracBits)

/-- A significand of full precision. -/
def FpFormat.isSignificand (f : FpFormat) (m : Nat) : Prop := 2 ^ f.fracBits ≤ m ∧ m < 2 ^ (f.fracBits + 1)

/-- The significand m and exponent e are the positive number x rounded as PS.RC says for the sign s, with an
unbounded exponent (43 R244). The number x is given by the numbers not above it (`le`) and not below it
(`ge`), so that it may be a square root. -/
def FpFormat.Rounds (f : FpFormat) (rc : BitVec 2) (s : Bool) (le ge : Rat → Prop) (m : Nat) (e : Int) :
    Prop :=
  f.isSignificand m ∧
  ∀ m' e', f.isSignificand m' →
    let r := f.gridValue m e
    let g := f.gridValue m' e'
    if rc = 0 then
      (r < g → ge ((r + g) / 2)) ∧ (g < r → le ((r + g) / 2)) ∧
        (r ≠ g → le ((r + g) / 2) → ge ((r + g) / 2) → m % 2 = 0)
    else if (rc = 1 ∧ s = false) ∨ (rc = 2 ∧ s = true) then ge r ∧ (ge g → r ≤ g)
    else le r ∧ (le g → g ≤ r)

/-- A result is FPResult of 43 R248 for the positive number x and the sign s: rounded, with Overflow and
Underflow judged on the rounded exponent, and the exponent field of the table; outside 1 to 2b the field is a free
value (93 U15; log 35). -/
def FpFormat.Delivers (f : FpFormat) (rc : BitVec 2) (k : Nat) (s : Bool) (le ge : Rat → Prop)
    (r : FpResult) : Prop :=
  ∃ (m : Nat) (e : Int) (ix : Bool), f.Rounds rc s le ge m e ∧
    (ix = false ↔ le (f.gridValue m e) ∧ ge (f.gridValue m e)) ∧
    let ovf := decide ((f.bias : Int) < e)
    let uf := decide (e < 1 - (f.bias : Int))
    let field : Int := if ovf then e else if uf then e + 2 * f.bias else e + f.bias
    let stored := if 1 ≤ field ∧ field ≤ 2 * f.bias then field.toNat
      else (Config.freeExponent k).toNat % 2 ^ f.expBits
    r = .value (f.pack s stored (m - 2 ^ f.fracBits)) s false ix uf ovf

/-- FPResult for a positive rational number. -/
def FpFormat.DeliversValue (f : FpFormat) (rc : BitVec 2) (k : Nat) (s : Bool) (x : Rat) (r : FpResult) :
    Prop :=
  f.Delivers rc k s (· ≤ x) (x ≤ ·) r

/-! ### Taking an interrupt (60 R404) -/

/-- The state after interrupt n is entered with q saved, no other agent moving meanwhile: PS pushed, q pushed, PC and PS
loaded from the vector, read after the pushes. -/
def State.entered (s : State) (n : Nat) (q : Word) : State :=
  let s1 := { s with sp := s.sp - 4 }.store .other (s.sp - 4).toNat 4 s.ps.toNat
  let s2 := { s1 with sp := s.sp - 8 }.store .other (s.sp - 8).toNat 4 q.toNat
  { s2 with
    pc := BitVec.ofNat 32 (s2.load false (8 * n) 4)
    ps := BitVec.ofNat 32 (s2.load false (8 * n + 4) 4)
    dirty := []
    waiting := false }

/-- Interrupt n can be entered from s with q saved: the shadow ROM has been left, no other agent moves meanwhile, both
pushes are inside memory and the NPS is one that may be loaded. -/
def State.canEnter (s : State) (n : Nat) (q : Word) : Prop :=
  s.romActive = false ∧ s.during = [] ∧ n < 256 ∧
    (s.sp - 4).toNat + 4 ≤ memoryBytes ∧ (s.sp - 8).toNat + 4 ≤ memoryBytes ∧
    Ps.legal (s.entered n q).ps = true ∧ Ps.rep (s.entered n q).ps = 0

/-- The eight bytes that an entry pushes. -/
def pushedEight (s : State) (x : Nat) : Bool :=
  (decide ((s.sp - 4).toNat ≤ x) && decide (x < (s.sp - 4).toNat + 4)) ||
    (decide ((s.sp - 8).toNat ≤ x) && decide (x < (s.sp - 8).toNat + 4))

/-! ### How the branches end -/

/-- A conditional branch: PS.REP is cleared, the target of the field replaces PC when the condition on PS
holds, the next instruction follows otherwise. A signed branch that finds U = 1 sets IN and raises
Invalid. -/
def Branches (mk : Mode .address → Instr) (signed : Bool) (cond : Word → Bool) : Prop :=
  ∀ (src : Mode .address) (s s1 : State) (target : Word),
    addressOf s.sp src { s with ps := Ps.withRep s.ps 0 } = .ok target s1 →
    ((signed && Ps.u s.ps) = false →
      Continues (mk src) s
        (if cond s.ps then { s1 with pc := target, dirty := [] }
          else { s1 with pc := s.pc + BitVec.ofNat 32 (mk src).length })
        (modeRegisters src) (fun _ => false) 0xC0000000 false ∧
      s1.ps = Ps.withRep s.ps 0 ∧ s1.fr = s.fr) ∧
    ((signed && Ps.u s.ps) = true → Raises (mk src) 9 s { s1 with ps := setBit s1.ps 9 true })

end Sys2Proof.Machine
end

