-- ==== Sys2Proof/Certificates/Slice0/Obligations.lean ====
section
/-! DEFINITION. The statements for the provers, each a proposition about the machine. A docstring names the
rules of spec/ that a statement formalises and, where it rests on a choice of the model, the log entry. -/

open Sys2Proof Sys2Proof.Machine

/-! ### Encoding (30 R90 to R123) -/

/-- Decoding the bytes of a well-formed instruction, followed by any bytes, gives that instruction and those bytes (30
R90, R94, R95, R98, R115, R123). -/
def Obligations.DecodingAnEncodingGivesTheInstruction : Prop :=
  ∀ (i : Instr) (rest : List Byte), i.wellFormed = true → decode (encode i ++ rest) = .ok (i, rest)

/-- Whatever the decoder answers is well formed, and its encoding with the bytes left over is what was decoded: no
byte sequence has two readings and no reserved encoding becomes another instruction (30 R90, R94, R96, R97, R98, R115,
R123). -/
def Obligations.EncodingADecodingGivesTheBytes : Prop :=
  ∀ (bs rest : List Byte) (i : Instr), decode bs = .ok (i, rest) →
    i.wellFormed = true ∧ encode i ++ rest = bs

/-- Words written out from the tables of 30 R94 and R98, one or more of each family, decode to the instructions they
stand for. -/
def Obligations.SampleEncodingsDecode : Prop :=
  decode [0x44#8, 0xC1#8, 0xC2#8] = .ok (.addw (.register 1) (.register 2), []) ∧
  decode [0x60#8, 0x01#8, 0xC2#8] = .ok (.subb (.literal 1) (.register 2), []) ∧
  decode [0x05#8, 0x3F#8, 0xC0#8] = .ok (.sftw (.literal (-1)) (.register 0), []) ∧
  decode [0xC2#8, 0x3F#8, 0xF8#8, 0x00#8] = .ok (.bith (.literal (-1)) (.byteDirect 0), []) ∧
  decode [0x04#8, 0xFD#8, 0xAA#8, 0xAA#8, 0x00#8, 0x00#8, 0xF8#8, 0x04#8] =
    .ok (.movw (.immediate 0xAAAA#32) (.byteDirect 4), []) ∧
  decode [0x48#8, 0x64#8, 0xCA#8] = .ok (.addr (.autoinc 4) (.register 10), []) ∧
  decode [0x8F#8, 0x3C#8] = .ok (.bne (.literal (-4)), []) ∧
  decode [0xDF#8, 0xF9#8, 0x00#8, 0x04#8] = .ok (.jmp (.halfDirect 1024), []) ∧
  decode [0x1E#8, 0xCF#8] = .ok (.rep (.register 15), []) ∧
  decode [0x4E#8, 0xFD#8, 0x80#8] = .ok (.trap (.immediate 0x80#8), []) ∧
  decode [0x85#8, 0x04#8, 0x03#8] = .ok (.ldpr (.literal 4) (.literal 3), []) ∧
  decode [0xB5#8, 0x00#8, 0xC1#8] = .ok (.lptr (.literal 0) (.register 1), []) ∧
  decode [0x06#8] = .ok (.res 0x06#8, []) ∧ decode [0xFF#8] = .ok (.esc 0xFF#8, [])

/-! ### The step (60 R402, 30 R116) -/

/-- When it is the processor's turn and no interrupt is taken at the boundary, a step at which the bytes at pc decode
to i fetches the opcode byte and executes i: directly while PS.REP is 00, and for RES and ESC always; otherwise after
the pre-test of REPEAT. The step itself has ended RETT's inhibit, noted that an instruction completes, drawn a new
number for free values, and taken over the moves of other agents that fall within the instruction, the first of them
before the fetch of the opcode byte (60 R402, 30 R116 steps 1 and 2, 20 R71; log 1, 2, 3, 32). Where one of the
instruction's bytes has been stored to since the last taken transfer, the step is refused by name, as 93 U20 asks (20
R76; log 39). That the bytes after an illegal field count as the instruction's, where it would be an illegal form before
they are fetched, is the model's choice (log 15). -/
def Obligations.StepRunsTheDecodedInstruction : Prop :=
  ∀ (s : State) (sched : List Event) (during : List (List Visit)) (i : Instr) (rest : List Byte),
    (s.schedule = [] ∧ sched = [] ∧ during = [] ∨
      ∃ eccs, (∀ e ∈ eccs, e = .clean) ∧ s.schedule = .processor eccs during :: sched) →
    s.stuck = false → s.waiting = false → s.nextInterrupt = none →
    decode s.fetchBytes = .ok (i, rest) →
    let stale : Prop := s.romActive = false ∧
      ∃ r ∈ s.dirty, r.1 < s.pc.toNat + i.length ∧ s.pc.toNat < r.1 + r.2
    let t : State := { s with
      schedule := sched, during := during, inhibit := false, traceDue := true, freeCount := s.freeCount + 1 }
    (stale → step s = .refused .staleInstructionBytes) ∧
    (during = [] → fetchOpcode t = .ok () t) ∧
    (¬stale → ∀ r, fetchOpcode t = .refused r → step s = .refused r) ∧
    (¬stale → ∀ u, fetchOpcode t = .ok () u →
      (Ps.rep s.ps = 0 ∨ isUnimplemented i = true → step s = exec i u) ∧
      (Ps.rep s.ps ≠ 0 → isUnimplemented i = false → step s = runRepeated i u))

/-- The pre-test of REPEAT: the Z condition is looked at before the count; when the repetition ends, PS.REP becomes 00
and the instruction is skipped without any side effect, its fields being fetched to measure it; otherwise the count is
decremented and the instruction executed. This order of test, decrement and execution is the spec's decision D16 (log
31). What a REPEAT may not govern is refused by name: REP, REPZ, REPNZ, TRAP, BKPT, RETI, RETT and WAIT; an
instruction with the count register in a field; one of the floating-point unit under REPZ or REPNZ (93 U10, U11, U16);
that this is so whatever the count is the model's choice (log 19, 46). The first field that is illegal or that the end
of memory cuts off, be it the first or the second of the instruction, is Operand Error or Address Error before the
next is looked at, in a skipped instruction too (log 18, 37) (44 R311, R313, R315, 70 R482, 30 R114, R123). -/
def Obligations.RepeatPreTest : Prop :=
  ∀ (i : Instr) (s : State),
    let c := Ps.repReg s.ps
    let ends := (Ps.rep s.ps = 2 ∧ Ps.z s.ps = false) ∨ (Ps.rep s.ps = 3 ∧ Ps.z s.ps = true) ∨ s.reg c = 0
    let uses : {t : OpType} → Mode t → Prop := fun {t} m =>
      match m with
      | .regIndirect r | .autoinc r | .autoincInd r | .byteOffReg r _ | .halfOffReg r _ | .wordOffReg r _
      | .wordOffRegInd r _ | .autodec r => r = c
      | .autoskip r => r = c ∨ r + 1 = c
      | .register r => r = c ∨ (t = .long ∧ r + 1 = c)
      | _ => False
    let control : Prop :=
      (∃ m, i = .rep m ∨ i = .repz m ∨ i = .repnz m) ∨ (∃ m, i = .trap m) ∨
        i = .bkpt ∨ i = .reti ∨ i = .rett ∨ i = .wait
    let floatUnit : Prop :=
      (∃ f ∈ i.fields, f.type = .real ∨ f.type = .long) ∨
      (∃ a b, i = .mulb a b ∨ i = .divb a b ∨ i = .dvrb a b ∨ i = .remb a b) ∨
      (∃ a b, i = .mulh a b ∨ i = .divh a b ∨ i = .dvrh a b ∨ i = .remh a b) ∨
      (∃ a b, i = .mulw a b ∨ i = .divw a b ∨ i = .dvrw a b ∨ i = .remw a b)
    let early := (Ps.rep s.ps = 2 ∨ Ps.rep s.ps = 3) ∧ floatUnit
    let good (f : Field) : Prop := modeIllegal f.access f.mode = false ∧ f.mode.isTruncated = false
    let skipped : State := { s with ps := Ps.withRep s.ps 0 }
    let counted := s.setReg c (s.reg c - 1)
    let fetched (u : State) : Prop := fetchFields i.fields skipped = .ok () u
    let faultsAt (f : Field) : Prop :=
      (early → runRepeated i s = .refused .repeatBeforeFpUnit) ∧
      (¬early → ¬ends → runRepeated i s = exec i counted) ∧
      (¬early → ends → ∀ u, fetched u → runRepeated i s =
        finish s (.exc (if modeIllegal f.access f.mode then 16 else 11) u))
    (s.during = [] → fetched skipped) ∧
    (control → runRepeated i s = .refused .repeatBeforeControl) ∧
    (¬control → (∀ f ∈ i.fields, good f) →
      ((∃ f ∈ i.fields, uses f.mode) → runRepeated i s = .refused .repeatCountUsed) ∧
      ((∀ f ∈ i.fields, ¬uses f.mode) →
        (early → runRepeated i s = .refused .repeatBeforeFpUnit) ∧
        (¬early → ends → ∀ u, fetched u →
          runRepeated i s = .next { u with pc := s.pc + BitVec.ofNat 32 i.length }) ∧
        (¬early → ¬ends → runRepeated i s = exec i counted))) ∧
    (∀ f fs, ¬control → i.fields = f :: fs → ¬good f → faultsAt f) ∧
    (∀ f g, ¬control → i.fields = [f, g] → good f → ¬good g →
      (uses f.mode → runRepeated i s = .refused .repeatCountUsed) ∧ (¬uses f.mode → faultsAt g))

/-! ### The invariant and reset (10 R20, R23, R24, R26, R50; 46 R362) -/

/-- Every step from a state that meets the invariant (memory canonical, reserved bits of PS 0, read-only fields of CR
and PI as manufactured, only bits of existing ports in OE, IE, PE, IO and the broadcast record, even address and count
registers) reaches a state that meets it. -/
def Obligations.EveryStepKeepsTheInvariant : Prop :=
  ∀ (s t : State), s.Inv → step s = .next t → t.Inv

/-- The state after hardware reset meets the invariant. -/
def Obligations.ResetMeetsTheInvariant : Prop := State.reset.Inv

/-- What reset leaves: the values that the table of 10 R50 gives. FR, memory from byte 8 on and the model's own fields
are not mentioned. -/
def Obligations.ResetValues : Prop :=
  let s := State.reset
  (∀ n, s.regs.get n = 0) ∧ s.sp = 0x8000 ∧ s.ps = 0 ∧
  s.cr.extractLsb' 0 24 = 0 ∧ s.pi.extractLsb' 0 31 = 0 ∧ s.tr = 0 ∧
  s.outputReady = 0x800003FF ∧ s.inputReady = 0x800003FF ∧
  s.oe = 0 ∧ s.ie = 0 ∧ s.inputPending = 0 ∧ s.pe = 0 ∧ s.io = 0 ∧
  (∀ p, s.inPorts.get p =
    { addr := 0, count := 0, latch := none, parityNoted := false, overrunNoted := false }) ∧
  (∀ p, (s.outPorts.get p).addr = 0 ∧ (s.outPorts.get p).count = 0) ∧
  s.broadcast = none ∧ s.errorFlag = true ∧ s.romActive = true ∧
  s.inhibit = false ∧ s.ueMarker = false ∧ s.cePending = false ∧
  (∀ x, x < 8 → s.mem.get x = if x = 4 ∨ x = 5 then 0xAA else 0)

/-! ### Memory and operands (20 R62, R64; 30 R99 to R121) -/

/-- An access of n bytes at a is made exactly when a + n - 1, computed without wrap, is at most 0x1FFFF (the spec's
decision D4); otherwise Address Error is raised and nothing is changed. A write stores the low-order byte first (the
decision D1) and nothing else, keeps memory canonical, and is read back; a read gives the bytes of memory, low-order
byte first, where no misaligned floating-point datum is read or stored in pieces; reading floating-point data with
operands of their own width is not in pieces, at any address (20 R65, 70 R481, log 16). Other agents move before an
access, and between the bytes of one that is not atomic, as the turn's visits say (the decisions D6 and D7; log 2): an
atomic access is made whole after its moves; of another one, a byte visited before the moves is accessed before them,
the rest after them; and the write of a destination that ADDW modifies is made after the moves that follow the read.
The fetches of an instruction's bytes are accesses too: moves fall before each of them, a byte stored to meanwhile is
refused (20 R76, 93 U20), also where the store was in the last list of visits, after which every later access has an
empty one; and STPR of IR to a register sees the moves before both its fields (20 R62, R64, R66, R68, R71, R75;
46 R370; log 2, 16, 31). -/
def Obligations.MemoryAccesses : Prop :=
  let later (rest : List (List Visit)) : List (List Visit) := if rest = [] then [[]] else rest
  let kind (fp : Bool) : Storer := if fp then .float else .other
  let atomic (a : Word) (n : Nat) : Prop := n = 1 ∨ (n = 2 ∧ a.toNat % 2 = 0) ∨ (n = 4 ∧ a.toNat % 4 = 0)
  (∀ (fp : Bool) (a : Word) (n v : Nat) (s : State),
     (0x20000 < a.toNat + n → readMem fp a n s = .exc 11 s ∧ writeMem fp a n v s = .exc 11 s) ∧
     (a.toNat + n ≤ 0x20000 → s.during = [] →
       (∃ w, readMem fp a n s = .ok w s) ∧
       ∃ t, writeMem fp a n v s = .ok () t ∧ t = s.store (kind fp) a.toNat n v ∧
         (∀ x, t.mem.get x =
           if a.toNat ≤ x ∧ x < a.toNat + n then BitVec.ofNat 8 (v / 256 ^ (x - a.toNat))
           else s.mem.get x) ∧
         (s.mem.wf = true → t.mem.wf = true) ∧
         ∀ g : Bool, readMem g a n t = .ok (v % 256 ^ n) t)) ∧
  (∀ (fp : Bool) (a : Word) (n : Nat) (s : State), s.during = [] → a.toNat + n ≤ 0x20000 →
     (s.Plain ∧ (fp = false ∨ a.toNat % n = 0)) ∨
       (fp = true ∧ ∀ h ∈ s.written, h.kind = .agent ∨ (h.kind = .float ∧ h.len = n)) →
     ∃ w, readMem fp a n s = .ok w s ∧ w < 256 ^ n ∧
       ∀ j, j < n → BitVec.ofNat 8 (w / 256 ^ j) = s.mem.get (a.toNat + j)) ∧
  (∀ (fp : Bool) (a : Word) (n v : Nat) (s t : State) (vs : List Visit) (rest : List (List Visit)),
     a.toNat + n ≤ 0x20000 → s.during = vs :: rest → atomic a n → State.Moved vs { s with during := later rest } t →
     readMem fp a n s = .ok (t.load fp a.toNat n) t ∧
     writeMem fp a n v s = .ok () (t.store (kind fp) a.toNat n v)) ∧
  (∀ (a : Word) (n v k : Nat) (s t : State) (vs : List Visit) (rest : List (List Visit)),
     a.toNat + n ≤ 0x20000 → ¬atomic a n → k < n → s.during = (.byte k :: vs) :: rest →
     (∀ j, Visit.byte j ∉ vs) → s.Plain →
     (State.Moved vs { s with during := later rest } t →
       ∃ w, readMem false a n s = .ok w t ∧ w < 256 ^ n ∧
         ∀ j, j < n → BitVec.ofNat 8 (w / 256 ^ j) = (if j = k then s else t).mem.get (a.toNat + j)) ∧
     (State.Moved vs
         { s with during := later rest, mem := s.mem.set (a.toNat + k) (BitVec.ofNat 8 (v / 256 ^ k)) } t →
       ∃ u, writeMem false a n v s = .ok () u ∧
         ∀ x, u.mem.get x =
           if a.toNat ≤ x ∧ x < a.toNat + n ∧ x ≠ a.toNat + k then BitVec.ofNat 8 (v / 256 ^ (x - a.toNat))
           else t.mem.get x)) ∧
  (∀ (s t : State) (vs : List Visit) (a : Word) (r : Reg),
     a.toNat % 4 = 0 → a.toNat + 4 ≤ 0x20000 → s.Plain → Ps.iv s.ps = false →
     s.dirty = [] → s.during = [[], [], [], [], vs] →
     State.Moved vs { s with during := [[]], nextByte := s.nextByte + 6 } t →
     let word : Word := s.mem.get (a.toNat + 3) ++ s.mem.get (a.toNat + 2) ++ s.mem.get (a.toNat + 1) ++
       s.mem.get a.toNat
     ∃ u, exec (.addw (.register r) (.wordDirect a)) s = .next u ∧
       u.mem = t.mem.write a.toNat 4 (word + s.reg r).toNat ∧
       u.inPorts = t.inPorts ∧ u.outPorts = t.outPorts ∧ u.tr = t.tr) ∧
  (∀ (a n : Nat) (s t : State) (vs : List Visit) (rest : List (List Visit)),
     n = 1 ∨ (n = 2 ∧ a % 2 = 0) ∨ (n = 4 ∧ a % 4 = 0) → s.during = vs :: rest →
     State.Moved vs { s with during := later rest, nextByte := a + n } t →
     let stored : Prop := t.romActive = false ∧
       ∃ g ∈ t.dirty, ∃ x, g.1 ≤ x ∧ x < g.1 + g.2 ∧ a ≤ x ∧ x < a + n
     (¬stored → fetchAccess a n s = .ok () t) ∧
     (stored → fetchAccess a n s = .refused .staleInstructionBytes)) ∧
  (∀ (s t u : State) (r : Reg), fetchAccess s.nextByte 1 s = .ok () t → fetchAccess t.nextByte 1 t = .ok () u →
     ∃ v, exec (.stpr (.literal 7) (.register r)) s = .next v ∧ v.reg r = u.inputReady ∧
       v.inPorts = u.inPorts)

/-- Register Direct operands, read in s0 or in the state s that the fetch of the mode byte leaves, with no misaligned
Longreal in the registers: a Byte or Halfword is the low part of the register, a Word or Real all of it, a Longreal
two registers with R0 after R15. Writing sign-extends a Byte or Halfword to 32 bits; a written register or pair reads
as written; no other register changes. A pair whose two registers are written alone after it was written as a Longreal
reads as those two, an odd one too (10 R11, 30 R100; 70 R481, log 16). -/
def Obligations.RegisterOperands : Prop :=
  ∀ (s0 s : State) (n : Reg), s.pairHazard = [] → s.pieceHazard = [] →
    fetchAccess s0.nextByte 1 s0 = .ok () s →
    let r := s.regs.get n
    let r1 := s.regs.get (n + 1)
    readField s0.sp (.register n : Mode .byte) s0 = .ok (r.extractLsb' 0 8) s ∧
    readField s0.sp (.register n : Mode .half) s0 = .ok (r.extractLsb' 0 16) s ∧
    readField s0.sp (.register n : Mode .word) s0 = .ok r s ∧
    readField s0.sp (.register n : Mode .real) s0 = .ok r s ∧
    readField s0.sp (.register n : Mode .long) s0 = .ok (r1 ++ r) s ∧
    (∀ (t : OpType) (sp0 : Word), t ≠ .address →
      openWritten sp0 (.register n : Mode t) s0 = .ok (.reg n) s) ∧
    (∀ v : Byte, ∃ t, writePlace .byte (.reg n) v s = .ok () t ∧
      t.regs = s.regs.set n (v.signExtend 32) ∧ t.reg n = v.signExtend 32) ∧
    (∀ v : Half, ∃ t, writePlace .half (.reg n) v s = .ok () t ∧
      t.regs = s.regs.set n (v.signExtend 32) ∧ t.reg n = v.signExtend 32) ∧
    (∀ v : Word, ∃ t, writePlace .word (.reg n) v s = .ok () t ∧ writePlace .real (.reg n) v s = .ok () t ∧
      t.regs = s.regs.set n v ∧ t.reg n = v) ∧
    (∀ v : Long, ∃ t, writePlace .long (.reg n) v s = .ok () t ∧ t.pair n = v ∧
      t.regs.get n = v.extractLsb' 0 32 ∧ t.regs.get (n + 1) = v.extractLsb' 32 32 ∧
      (∀ m, m ≠ n → m ≠ n + 1 → t.regs.get m = s.regs.get m) ∧
      ∀ x y : Word, ∃ t1 t2, writePlace .word (.reg n) x t = .ok () t1 ∧
        writePlace .word (.reg (n + 1)) y t1 = .ok () t2 ∧ t2.pair n = y ++ x)

/-- Literal and Immediate operands: a literal is its six bits sign-extended to the operand, or the Real or Longreal of
that value, plus zero for 0; an immediate is the pattern in the instruction. Neither changes the state that the fetch
of the field leaves (30 R99, R112, 43 R245). -/
def Obligations.LiteralAndImmediateOperands : Prop :=
  ∀ (s0 s : State) (sp0 : Word) (n : BitVec 6),
    (fetchAccess s0.nextByte 1 s0 = .ok () s →
      readField sp0 (.literal n : Mode .byte) s0 = .ok (n.signExtend 8) s ∧
      readField sp0 (.literal n : Mode .half) s0 = .ok (n.signExtend 16) s ∧
      readField sp0 (.literal n : Mode .word) s0 = .ok (n.signExtend 32) s ∧
      (∃ v : BitVec 32, readField sp0 (.literal n : Mode .real) s0 = .ok v s ∧
        (fpFormat .real).isFinite v.toNat = true ∧ (fpFormat .real).val v.toNat = n.toInt ∧ (n = 0 → v = 0)) ∧
      (∃ v : BitVec 64, readField sp0 (.literal n : Mode .long) s0 = .ok v s ∧
        (fpFormat .long).isFinite v.toNat = true ∧ (fpFormat .long).val v.toNat = n.toInt ∧ (n = 0 → v = 0))) ∧
    (∀ (t : OpType) (v : BitVec t.bits), fetchField .r (.immediate v : Mode t) s0 = .ok () s →
      readField sp0 (.immediate v : Mode t) s0 = .ok v s)

/-- The operand and the one side effect of the modes that step a register: Autodecrement steps before the access,
Autoincrement, Autoskip and Autoincrement Indirect after it, by the operand length, the next register's contents and
4; first read as a source; then as a destination that is read and written: one address, read from and kept for the
write, and the register stepped once; then as one that is only written; s is the state that the fetch of the mode byte
leaves (30 R102 to R105, R118, R119). -/
def Obligations.SteppingModes : Prop :=
  ∀ (t : OpType) (s0 s : State) (sp0 : Word) (r : Reg), t ≠ .address → fetchAccess s0.nextByte 1 s0 = .ok () s →
    let len := BitVec.ofNat 32 t.len
    let down := s.setReg r (s.reg r - len)
    (∀ w s1, readMem t.isFp (s.reg r - len) t.len down = .ok w s1 →
      readField sp0 (.autodec r : Mode t) s0 = .ok (BitVec.ofNat t.bits w) s1 ∧
      openModified sp0 (.autodec r : Mode t) s0 = .ok (BitVec.ofNat t.bits w, .mem (s.reg r - len)) s1) ∧
    (∀ w s1, readMem t.isFp (s.reg r) t.len s = .ok w s1 →
      readField sp0 (.autoinc r : Mode t) s0 = .ok (BitVec.ofNat t.bits w) (s1.setReg r (s.reg r + len)) ∧
      readField sp0 (.autoskip r : Mode t) s0 =
        .ok (BitVec.ofNat t.bits w) (s1.setReg r (s.reg r + s.reg (r + 1))) ∧
      openModified sp0 (.autoinc r : Mode t) s0 =
        .ok (BitVec.ofNat t.bits w, .mem (s.reg r)) (s1.setReg r (s.reg r + len)) ∧
      openModified sp0 (.autoskip r : Mode t) s0 =
        .ok (BitVec.ofNat t.bits w, .mem (s.reg r)) (s1.setReg r (s.reg r + s.reg (r + 1)))) ∧
    (∀ p s1, readMem false (s.reg r) 4 s = .ok p s1 →
      openWritten sp0 (.autoincInd r : Mode t) s0 =
        .ok (.mem (BitVec.ofNat 32 p)) (s1.setReg r (s.reg r + 4)) ∧
      ∀ w s2, readMem t.isFp (BitVec.ofNat 32 p) t.len s1 = .ok w s2 →
        readField sp0 (.autoincInd r : Mode t) s0 =
          .ok (BitVec.ofNat t.bits w) (s2.setReg r (s.reg r + 4)) ∧
        openModified sp0 (.autoincInd r : Mode t) s0 =
          .ok (BitVec.ofNat t.bits w, .mem (BitVec.ofNat 32 p)) (s2.setReg r (s.reg r + 4))) ∧
    openWritten sp0 (.autodec r : Mode t) s0 = .ok (.mem (s.reg r - len)) down ∧
    openWritten sp0 (.autoinc r : Mode t) s0 = .ok (.mem (s.reg r)) (s.setReg r (s.reg r + len)) ∧
    openWritten sp0 (.autoskip r : Mode t) s0 =
      .ok (.mem (s.reg r)) (s.setReg r (s.reg r + s.reg (r + 1)))

/-- The effective addresses of the modes without side effects, for every access kind that reads or writes, once the
field is fetched: register indirect, offsets from a register, from the instruction's own address and from the SP at
its beginning (sign-extended), direct (zero-extended), and the indirect forms, which read a pointer (30 R101, R106 to
R111). -/
def Obligations.EffectiveAddresses : Prop :=
  ∀ (t : OpType) (k : Access) (s : State) (sp0 : Word) (r : Reg) (b : Byte) (h : Half) (w : Word),
    k ≠ .reg →
    locate k sp0 (.regIndirect r : Mode t) s = .ok (.mem (s.reg r)) s ∧
    locate k sp0 (.byteOffReg r b : Mode t) s = .ok (.mem (s.reg r + b.signExtend 32)) s ∧
    locate k sp0 (.halfOffReg r h : Mode t) s = .ok (.mem (s.reg r + h.signExtend 32)) s ∧
    locate k sp0 (.wordOffReg r w : Mode t) s = .ok (.mem (s.reg r + w)) s ∧
    locate k sp0 (.byteOffPc b : Mode t) s = .ok (.mem (s.pc + b.signExtend 32)) s ∧
    locate k sp0 (.halfOffPc h : Mode t) s = .ok (.mem (s.pc + h.signExtend 32)) s ∧
    locate k sp0 (.wordOffPc w : Mode t) s = .ok (.mem (s.pc + w)) s ∧
    locate k sp0 (.byteOffSp b : Mode t) s = .ok (.mem (sp0 + b.signExtend 32)) s ∧
    locate k sp0 (.halfOffSp h : Mode t) s = .ok (.mem (sp0 + h.signExtend 32)) s ∧
    locate k sp0 (.wordOffSp w : Mode t) s = .ok (.mem (sp0 + w)) s ∧
    locate k sp0 (.byteDirect b : Mode t) s = .ok (.mem (b.zeroExtend 32)) s ∧
    locate k sp0 (.halfDirect h : Mode t) s = .ok (.mem (h.zeroExtend 32)) s ∧
    locate k sp0 (.wordDirect w : Mode t) s = .ok (.mem w) s ∧
    (∀ p s1, readMem false (s.reg r + w) 4 s = .ok p s1 →
      locate k sp0 (.wordOffRegInd r w : Mode t) s = .ok (.mem (BitVec.ofNat 32 p)) s1) ∧
    (∀ p s1, readMem false (s.pc + w) 4 s = .ok p s1 →
      locate k sp0 (.wordOffPcInd w : Mode t) s = .ok (.mem (BitVec.ofNat 32 p)) s1) ∧
    (∀ p s1, readMem false (sp0 + w) 4 s = .ok p s1 →
      locate k sp0 (.wordOffSpInd w : Mode t) s = .ok (.mem (BitVec.ofNat 32 p)) s1) ∧
    (∀ p s1, readMem false w 4 s = .ok p s1 →
      locate k sp0 (.wordIndirect w : Mode t) s = .ok (.mem (BitVec.ofNat 32 p)) s1)

/-- Push/Pop operands, S1 to S8 of 30 R113, with the SP at the beginning as sp0: where each operand is and what SP
becomes. A first operand is popped from sp0; a second one that is modified or compared stays where the first has left
SP, and is popped after a compare only if the first was STK too; one that is only written is pushed, whatever the
stack holds; a second value operand is popped. The cases of CMP and BIT, of unequal lengths and of value operands are
the spec's decision D11 (log 31). The first operand's mode byte is fetched in s0, leaving s, the second one's after
the pop, leaving q. -/
def Obligations.StackOperands : Prop :=
  ∀ (t u : OpType) (s0 s : State), t ≠ .address → u ≠ .address → fetchAccess s0.nextByte 1 s0 = .ok () s →
    let lt := BitVec.ofNat 32 t.len
    let lu := BitVec.ofNat 32 u.len
    s.sp = s0.sp ∧
    openWritten s.sp (.stk : Mode u) s0 = .ok (.mem (s.sp - lu)) { s with sp := s.sp - lu } ∧
    (∀ w s1, readMem u.isFp s.sp u.len s = .ok w s1 →
      openModified s.sp (.stk : Mode u) s0 = .ok (BitVec.ofNat u.bits w, .mem s.sp) s1 ∧
      ∀ m : Mode t, m ≠ .stk → readSecond s.sp m (.stk : Mode u) s0 = .ok (BitVec.ofNat u.bits w) s1) ∧
    (∀ v s1, readMem t.isFp s.sp t.len s = .ok v s1 →
      let popped : State := { s1 with sp := s.sp + lt }
      readField s.sp (.stk : Mode t) s0 = .ok (BitVec.ofNat t.bits v) popped ∧
      ∀ q, fetchAccess popped.nextByte 1 popped = .ok () q →
        openWritten s.sp (.stk : Mode u) popped =
          .ok (.mem (s.sp + lt - lu)) { q with sp := s.sp + lt - lu } ∧
        ∀ w s2, readMem u.isFp (s.sp + lt) u.len q = .ok w s2 →
          openModified s.sp (.stk : Mode u) popped = .ok (BitVec.ofNat u.bits w, .mem (s.sp + lt)) s2 ∧
          readSecond s.sp (.stk : Mode t) (.stk : Mode u) popped =
            .ok (BitVec.ofNat u.bits w) { s2 with sp := s.sp + lt + lu } ∧
          readField s.sp (.stk : Mode u) popped =
            .ok (BitVec.ofNat u.bits w) { s2 with sp := s.sp + lt + lu })

/-- Which modes are illegal for which access kinds: reserved mode bytes for all; a literal or an immediate where the
operand is written; an immediate and STK where it is an address; everything but Register Direct for a REPEAT. An
instruction whose first field is illegal raises Operand Error with no operand written and no flag changed; one whose
second field is illegal does so after its first field, a source that is read or MOVA's address, has been evaluated,
and that field's side effects stay. Other agents may move before the fetch of the second field's mode byte; for the
first field none is taken to. The spec's decisions here: a literal or an immediate may be read (D10), ESCAPE modes are
reserved (D9), the address saved is the instruction's own (D22), side effects stay (D5) (log 31); that an illegal
field is a term that is executed is log 37, and that the second field's exception leaves FR log 48 (30 R114, R116; 20
R64; 60 R417). -/
def Obligations.IllegalFieldsRaiseOperandError : Prop :=
  ((∀ (t : OpType) (b : Byte) (v : BitVec t.bits) (n : BitVec 6) (k : Access),
     modeIllegal k (.reserved b : Mode t) = true ∧
     (modeIllegal k (.literal n : Mode t) = true ↔ k = .w ∨ k = .rw ∨ k = .reg) ∧
     (modeIllegal k (.immediate v : Mode t) = true ↔ k = .w ∨ k = .rw ∨ k = .a ∨ k = .reg) ∧
     (modeIllegal k (.stk : Mode t) = true ↔ k = .a ∨ k = .reg) ∧
     (∀ r, modeIllegal k (.register r : Mode t) = false) ∧
     (∀ r, modeIllegal k (.regIndirect r : Mode t) = true ↔ k = .reg)) ∧
   ∀ (i : Instr) (f : Field) (fs : List Field) (s : State), i.fields = f :: fs →
     modeIllegal f.access f.mode = true → s.during = [] →
     ∃ t, exec i s = finish s (.exc 16 t) ∧ State.SameBut [] (fun _ => false) 0xC0000000 false s t) ∧
  (∀ (i : Instr) (f g : Field) (s s1 t : State) (v : BitVec f.type.bits), i.fields = [f, g] → f.access = .r →
     modeIllegal g.access g.mode = true → readField s.sp f.mode s = .ok v s1 →
     fetchAccess s1.nextByte 1 s1 = .ok () t →
     exec i s = finish s (.exc 16 t) ∧
       State.SameBut (modeRegisters f.mode) (fun _ => false) 0 (isStk f.mode) s t) ∧
  (∀ (src : Mode .address) (des : Mode .word) (s s1 t : State) (a : Word), modeIllegal .w des = true →
     addressOf s.sp src s = .ok a s1 → fetchAccess s1.nextByte 1 s1 = .ok () t →
     exec (.mova src des) s = finish s (.exc 16 t) ∧
       State.SameBut (modeRegisters src) (fun _ => false) 0 false s t)

/-! ### Integer arithmetic (40) -/

/-- ADD and ADC: the exact sum of the signed operands (and the carry, for ADC); its low part stored; C the unsigned
carry out; N the sign of the exact sum, Z of the stored part; V when the exact sum does not fit; U 0; Integer Overflow
as 40 R154 (40 R141, R142). -/
def Obligations.AddResultsAndFlags : Prop :=
  let sum : {w : Nat} → Bool → BitVec w → BitVec w → AluResult w := fun {w} cin src dsrc =>
    let exact : Int := dsrc.toInt + src.toInt + cin.toNat
    { des := BitVec.ofInt w exact
      c := decide (2 ^ w ≤ dsrc.toNat + src.toNat + cin.toNat)
      v := decide (exact < -2 ^ (w - 1) ∨ 2 ^ (w - 1) - 1 < exact)
      z := decide (BitVec.ofInt w exact = 0)
      n := decide (exact < 0) }
  ModifiesInteger .addb (fun _ a b => sum false a b) ∧
  ModifiesInteger .addh (fun _ a b => sum false a b) ∧
  ModifiesInteger .addw (fun _ a b => sum false a b) ∧
  ModifiesInteger .adcb (fun c a b => sum c a b) ∧
  ModifiesInteger .adch (fun c a b => sum c a b) ∧
  ModifiesInteger .adcw (fun c a b => sum c a b)

/-- SUB, SBB and SBR: the exact difference dsrc - src (less the borrow, for SBB), or src - dsrc for SBR; C the
unsigned borrow; the other flags as for ADD (40 R143, R144, R145). -/
def Obligations.SubtractResultsAndFlags : Prop :=
  let difference : {w : Nat} → Bool → BitVec w → BitVec w → AluResult w := fun {w} cin x y =>
    let exact : Int := x.toInt - y.toInt - cin.toNat
    { des := BitVec.ofInt w exact
      c := decide (x.toNat < y.toNat + cin.toNat)
      v := decide (exact < -2 ^ (w - 1) ∨ 2 ^ (w - 1) - 1 < exact)
      z := decide (BitVec.ofInt w exact = 0)
      n := decide (exact < 0) }
  ModifiesInteger .subb (fun _ a b => difference false b a) ∧
  ModifiesInteger .subh (fun _ a b => difference false b a) ∧
  ModifiesInteger .subw (fun _ a b => difference false b a) ∧
  ModifiesInteger .sbbb (fun c a b => difference c b a) ∧
  ModifiesInteger .sbbh (fun c a b => difference c b a) ∧
  ModifiesInteger .sbbw (fun c a b => difference c b a) ∧
  ModifiesInteger .sbrb (fun _ a b => difference false a b) ∧
  ModifiesInteger .sbrh (fun _ a b => difference false a b) ∧
  ModifiesInteger .sbrw (fun _ a b => difference false a b)

/-- NEG: the exact negation, C when src is not 0. CMP: only flags, of the exact src - dsrc, with V 0 (40 R146, R147).
-/
def Obligations.NegateAndCompareFlags : Prop :=
  let negation : {w : Nat} → BitVec w → AluResult w := fun {w} src =>
    { des := BitVec.ofInt w (-src.toInt)
      c := decide (src.toNat ≠ 0)
      v := decide (-src.toInt < -2 ^ (w - 1) ∨ 2 ^ (w - 1) - 1 < -src.toInt)
      z := decide (BitVec.ofInt w (-src.toInt) = 0)
      n := decide (-src.toInt < 0) }
  let comparison : {w : Nat} → BitVec w → BitVec w → AluResult w := fun {_} src dsrc =>
    { des := 0
      c := decide (src.toNat < dsrc.toNat)
      v := false
      z := decide (src.toInt = dsrc.toInt)
      n := decide (src.toInt < dsrc.toInt) }
  WritesInteger .negb (fun _ a => negation a) ∧
  WritesInteger .negh (fun _ a => negation a) ∧
  WritesInteger .negw (fun _ a => negation a) ∧
  ComparesInteger .cmpb (fun _ a b => comparison a b) ∧
  ComparesInteger .cmph (fun _ a b => comparison a b) ∧
  ComparesInteger .cmpw (fun _ a b => comparison a b)

/-- MUL: the exact product of the signed operands; its low part stored; C unchanged; V when it does not fit (40 R148).
-/
def Obligations.MultiplyResultsAndFlags : Prop :=
  let product : {w : Nat} → Bool → BitVec w → BitVec w → AluResult w := fun {w} c src dsrc =>
    let exact : Int := src.toInt * dsrc.toInt
    { des := BitVec.ofInt w exact
      c := c
      v := decide (exact < -2 ^ (w - 1) ∨ 2 ^ (w - 1) - 1 < exact)
      z := decide (BitVec.ofInt w exact = 0)
      n := decide (exact < 0) }
  ModifiesInteger .mulb (fun c a b => product c a b) ∧
  ModifiesInteger .mulh (fun c a b => product c a b) ∧
  ModifiesInteger .mulw (fun c a b => product c a b)

/-- DIV (dsrc / src) and DVR (src / dsrc): the exact quotient truncated toward zero; the most negative dividend over
-1 stores the dividend and sets V. REM: dsrc less the truncated quotient times src, V 0. C unchanged; a zero divisor
stores nothing, changes no flag and raises interrupt 4 (40 R149, R150, R151, R155). The truncation is the spec's
decision D24, the unchanged flags D25. -/
def Obligations.DivideResultsAndFlags : Prop :=
  (let quotient : {w : Nat} → Bool → BitVec w → BitVec w → Option (AluResult w) := fun {w} c x y =>
     let exact : Int := x.toInt.tdiv y.toInt
     let special := decide (x.toInt = -2 ^ (w - 1) ∧ y.toInt = -1)
     let des := if special then x else BitVec.ofInt w exact
     if y.toInt = 0 then none
     else some { des := des, c := c, v := special, z := decide (des = 0), n := decide (exact < 0) }
   DividesInteger .divb (fun c a b => quotient c b a) ∧
   DividesInteger .divh (fun c a b => quotient c b a) ∧
   DividesInteger .divw (fun c a b => quotient c b a) ∧
   DividesInteger .dvrb (fun c a b => quotient c a b) ∧
   DividesInteger .dvrh (fun c a b => quotient c a b) ∧
   DividesInteger .dvrw (fun c a b => quotient c a b)) ∧
  (let remainder : {w : Nat} → Bool → BitVec w → BitVec w → Option (AluResult w) := fun {w} c src dsrc =>
     let exact : Int := dsrc.toInt - dsrc.toInt.tdiv src.toInt * src.toInt
     if src.toInt = 0 then none
     else some
       { des := BitVec.ofInt w exact, c := c, v := false, z := decide (BitVec.ofInt w exact = 0)
         n := decide (exact < 0) }
   DividesInteger .remb (fun c a b => remainder c a b) ∧
   DividesInteger .remh (fun c a b => remainder c a b) ∧
   DividesInteger .remw (fun c a b => remainder c a b))

/-- ADCD and SBBD on valid decimal digits: the sum or difference modulo 100 in two digits, C the decimal carry or
borrow, N, V and U 0. On an invalid digit the instruction goes on all the same, the byte and C being free values (40
R152, R153; 93 U13, log 34). -/
def Obligations.DecimalResultsAndFlags : Prop :=
  let value : Byte → Int := fun x => 10 * (x.extractLsb' 4 4).toNat + (x.extractLsb' 0 4).toNat
  let valid : Byte → Prop := fun x => (x.extractLsb' 4 4).toNat ≤ 9 ∧ (x.extractLsb' 0 4).toNat ≤ 9
  let digits : Int → Byte := fun k => BitVec.ofInt 8 (k / 10 * 16 + k % 10)
  let holds (mk : Mode .byte → Mode .byte → Instr) (exact : Byte → Byte → Int → Int)
      (carry : Int → Bool) : Prop :=
    ∀ (src des : Mode .byte) (s s2 : State) (a b : Byte) (p : Place), Modifies src des s a b p s2 →
      (valid a ∧ valid b → ∀ s3,
        let t := exact a b (Ps.c s.ps).toNat
        writePlace .byte p (digits (t % 100)) s2 = .ok () s3 →
        EndsInteger (mk src des) s (s3.flagged (carry t) false (decide (t % 100 = 0)) false) false
          (modeRegisters src ++ modeRegisters des ++ placeRegisters .byte p) (placeBytes .byte p) 0x1F
          (isStk src || isStk des)) ∧
      (¬(valid a ∧ valid b) → ∀ s3,
        writePlace .byte p (Config.freeDecimal s.freeCount) s2 = .ok () s3 →
        EndsInteger (mk src des) s
          (s3.flagged (Config.freeDecimalCarry s.freeCount) false
            (decide (Config.freeDecimal s.freeCount = 0)) false) false
          (modeRegisters src ++ modeRegisters des ++ placeRegisters .byte p) (placeBytes .byte p) 0x1F
          (isStk src || isStk des))
  holds .adcd (fun a b c => value a + value b + c) (fun t => decide (100 ≤ t)) ∧
  holds .sbbd (fun a b c => value b - value a - c) (fun t => decide (t < 0))

/-! ### Logical, shifts, rotate, find first one (41) -/

/-- AND, OR, XOR, NOT: the bitwise result; BIT: only the flags of the AND. N the top bit, Z when all bits are 0, V and
U 0, C unchanged (41 R180 to R184). -/
def Obligations.LogicalResultsAndFlags : Prop :=
  let result : {w : Nat} → Bool → BitVec w → AluResult w := fun {w} c x =>
    { des := x, c := c, v := false, z := decide (x = 0), n := x.getLsbD (w - 1) }
  ModifiesInteger .andb (fun c a b => result c (a &&& b)) ∧
  ModifiesInteger .andh (fun c a b => result c (a &&& b)) ∧
  ModifiesInteger .andw (fun c a b => result c (a &&& b)) ∧
  ModifiesInteger .orb (fun c a b => result c (a ||| b)) ∧
  ModifiesInteger .orh (fun c a b => result c (a ||| b)) ∧
  ModifiesInteger .orw (fun c a b => result c (a ||| b)) ∧
  ModifiesInteger .xorb (fun c a b => result c (a ^^^ b)) ∧
  ModifiesInteger .xorh (fun c a b => result c (a ^^^ b)) ∧
  ModifiesInteger .xorw (fun c a b => result c (a ^^^ b)) ∧
  WritesInteger .notb (fun c a => result c (~~~a)) ∧
  WritesInteger .noth (fun c a => result c (~~~a)) ∧
  WritesInteger .notw (fun c a => result c (~~~a)) ∧
  ComparesInteger .bitb (fun c a b => result c (a &&& b)) ∧
  ComparesInteger .bith (fun c a b => result c (a &&& b)) ∧
  ComparesInteger .bitw (fun c a b => result c (a &&& b))

/-- SFT by the closed form of 41 R186: left by a positive count, right by a negative one. SFA: a left shift multiplies
by a power of two, with V when the exact product does not fit and N the sign of dsrc; a right shift by k divides by
2^k rounding toward minus infinity. ROT: a negative count rotates left, a positive one right. C is the last bit
shifted out (for SFT and a left SFA 0 when more places are shifted than there are bits) or rotated around, and the low
bit of dsrc for a count of 0. The results for counts of the width or more are the spec's decision D26, that a count of
0 writes C and the destination D27 (log 31) (41 R185 to R188). -/
def Obligations.ShiftAndRotateResultsAndFlags : Prop :=
  (let shifted : {w : Nat} → Byte → BitVec w → AluResult w := fun {w} cnt x =>
     let k := cnt.toInt.natAbs
     let des := if 0 < cnt.toInt then x <<< k else x >>> k
     let c :=
       if cnt.toInt = 0 then x.getLsbD 0
       else if w < k then false
       else if 0 < cnt.toInt then x.getLsbD (w - k)
       else x.getLsbD (k - 1)
     { des := des, c := c, v := false, z := decide (des = 0), n := des.getLsbD (w - 1) }
   ModifiesInteger .sftb (fun _ a b => shifted a b) ∧
   ModifiesInteger .sfth (fun _ a b => shifted a b) ∧
   ModifiesInteger .sftw (fun _ a b => shifted a b)) ∧
  (let shifted : {w : Nat} → Byte → BitVec w → AluResult w := fun {w} cnt x =>
     let k := cnt.toInt.natAbs
     let exact : Int := if 0 < cnt.toInt then x.toInt * 2 ^ k else x.toInt / 2 ^ k
     let des := BitVec.ofInt w exact
     let c :=
       if cnt.toInt = 0 then x.getLsbD 0
       else if 0 < cnt.toInt then (if w < k then false else x.getLsbD (w - k))
       else if w < k then x.getLsbD (w - 1) else x.getLsbD (k - 1)
     { des := des, c := c
       v := decide (exact < -2 ^ (w - 1) ∨ 2 ^ (w - 1) - 1 < exact)
       z := decide (des = 0), n := decide (exact < 0) }
   ModifiesInteger .sfab (fun _ a b => shifted a b) ∧
   ModifiesInteger .sfah (fun _ a b => shifted a b) ∧
   ModifiesInteger .sfaw (fun _ a b => shifted a b)) ∧
  (let rotated : {w : Nat} → Byte → BitVec w → AluResult w := fun {w} cnt x =>
     let k := cnt.toInt.natAbs
     let des := if cnt.toInt < 0 then x.rotateLeft k else x.rotateRight k
     let c := if 0 < cnt.toInt then des.getLsbD (w - 1) else des.getLsbD 0
     { des := des, c := c, v := false, z := decide (des = 0), n := des.getLsbD (w - 1) }
   ModifiesInteger .rotb (fun _ a b => rotated a b) ∧
   ModifiesInteger .roth (fun _ a b => rotated a b) ∧
   ModifiesInteger .rotw (fun _ a b => rotated a b))

/-- FFO: the stored Byte is the position of the lowest bit of src that is 1, or the width when src is 0; Z says that
src is 0; N, V and U 0, C unchanged (41 R189). -/
def Obligations.FindFirstOneResultsAndFlags : Prop :=
  let position : {w : Nat} → BitVec w → Nat := fun {w} x =>
    ((List.range w).find? fun i => x.getLsbD i).getD w
  let result : {w : Nat} → Bool → BitVec w → AluResult 8 := fun {_} c x =>
    { des := BitVec.ofNat 8 (position x), c := c, v := false, z := decide (x = 0), n := false }
  WritesInteger .ffob (fun c a => result c a) ∧
  WritesInteger .ffoh (fun c a => result c a) ∧
  WritesInteger .ffow (fun c a => result c a)

/-! ### Moves and conversions (42) -/

/-- MOV copies the pattern and changes no flag. MOVB, MOVH and MOVW leave FR alone; MOVR and MOVL write its
first-operand bits from the source (42 R210, R211; 93 U5, log 24 for its other bits). -/
def Obligations.MovesCopyAndKeepFlags : Prop :=
  Copies .movb (fun s _ => s.fr) ∧ Copies .movh (fun s _ => s.fr) ∧ Copies .movw (fun s _ => s.fr) ∧
  Copies .movr (fun s a => faultOne (fpFormat .real) s.freeCount a.toNat) ∧
  Copies .movl (fun s a => faultOne (fpFormat .long) s.freeCount a.toNat)

/-- MOVA stores the operand address of its source, without looking at memory there, and changes no flag. The operand
address of an address field: the instruction's own address plus a literal or a register, or the effective address of
any other mode, in the state s that the fetch of the field leaves; Immediate, STK and the reserved modes have none (42
R212; 30 R120, 44 R290). -/
def Obligations.MoveAddressAndAddressOperands : Prop :=
  (∀ (src : Mode .address) (des : Mode .word) (s s1 s2 s3 : State) (a : Word) (p : Place),
     addressOf s.sp src s = .ok a s1 → openWritten s.sp des s1 = .ok p s2 →
     writePlace .word p a s2 = .ok () s3 →
     Continues (.mova src des) s { s3 with pc := s.following (Instr.mova src des).length }
         (modeRegisters src ++ modeRegisters des ++ placeRegisters .word p) (placeBytes .word p) 0
         (isStk des) ∧
       s3.fr = s.fr) ∧
  (∀ (s0 s : State) (sp0 : Word) (n : BitVec 6) (r : Reg) (v : BitVec OpType.address.bits) (b : Byte) (h : Half)
     (w : Word),
     let operand (m : Mode .address) (x : Res Word) : Prop := fetchField .a m s0 = .ok () s → addressOf sp0 m s0 = x
     operand (.literal n) (.ok (s.pc + n.signExtend 32) s) ∧
     operand (.register r) (.ok (s.pc + s.reg r) s) ∧
     operand (.regIndirect r) (.ok (s.reg r) s) ∧
     operand (.byteOffReg r b) (.ok (s.reg r + b.signExtend 32) s) ∧
     operand (.halfOffReg r h) (.ok (s.reg r + h.signExtend 32) s) ∧
     operand (.wordOffReg r w) (.ok (s.reg r + w) s) ∧
     operand (.byteOffPc b) (.ok (s.pc + b.signExtend 32) s) ∧
     operand (.halfOffPc h) (.ok (s.pc + h.signExtend 32) s) ∧
     operand (.wordOffPc w) (.ok (s.pc + w) s) ∧
     operand (.byteOffSp b) (.ok (sp0 + b.signExtend 32) s) ∧
     operand (.halfOffSp h) (.ok (sp0 + h.signExtend 32) s) ∧
     operand (.wordOffSp w) (.ok (sp0 + w) s) ∧
     operand (.byteDirect b) (.ok (b.zeroExtend 32) s) ∧
     operand (.halfDirect h) (.ok (h.zeroExtend 32) s) ∧
     operand (.wordDirect w) (.ok w s) ∧
     operand (.autodec r) (.ok (s.reg r - 4) (s.setReg r (s.reg r - 4))) ∧
     operand (.autoinc r) (.ok (s.reg r) (s.setReg r (s.reg r + 4))) ∧
     operand (.autoskip r) (.ok (s.reg r) (s.setReg r (s.reg r + s.reg (r + 1)))) ∧
     (∀ p s1, readMem false (s.reg r) 4 s = .ok p s1 →
       operand (.autoincInd r) (.ok (BitVec.ofNat 32 p) (s1.setReg r (s.reg r + 4)))) ∧
     (∀ p s1, readMem false (s.reg r + w) 4 s = .ok p s1 →
       operand (.wordOffRegInd r w) (.ok (BitVec.ofNat 32 p) s1)) ∧
     (∀ p s1, readMem false (s.pc + w) 4 s = .ok p s1 →
       operand (.wordOffPcInd w) (.ok (BitVec.ofNat 32 p) s1)) ∧
     (∀ p s1, readMem false (sp0 + w) 4 s = .ok p s1 →
       operand (.wordOffSpInd w) (.ok (BitVec.ofNat 32 p) s1)) ∧
     (∀ p s1, readMem false w 4 s = .ok p s1 →
       operand (.wordIndirect w) (.ok (BitVec.ofNat 32 p) s1)) ∧
     operand (.immediate v) (.exc 16 s) ∧ operand .stk (.exc 16 s) ∧
     ∀ c, operand (.reserved c) (.exc 16 s))

/-- CVBW and CVHW sign-extend; CVWB and CVWH store the low part with V when the value does not fit; N the sign of the
value, Z of the stored part, C unchanged, and IX, UF, FZ, OF, IN 0 (42 R214 to R217). -/
def Obligations.IntegerConversions : Prop :=
  let narrow : (w : Nat) → Bool → Word → AluResult w := fun w c x =>
    { des := x.setWidth w
      c := c
      v := decide (x.toInt < -2 ^ (w - 1) ∨ 2 ^ (w - 1) - 1 < x.toInt)
      z := decide (x.setWidth w = 0)
      n := decide (x.toInt < 0) }
  let widen : {w : Nat} → Bool → BitVec w → AluResult 32 := fun {w} c x =>
    { des := x.signExtend 32, c := c, v := false, z := decide (x = 0), n := x.getLsbD (w - 1) }
  ConvertsInteger .cvbw (fun c a => widen c a) ∧ ConvertsInteger .cvhw (fun c a => widen c a) ∧
  ConvertsInteger .cvwb (fun c a => narrow 8 c a) ∧ ConvertsInteger .cvwh (fun c a => narrow 16 c a)

/-- CVBR, CVHR, CVBL, CVHL, CVWL: the stored pattern has exactly the value of the integer, zero being plus zero; C = N
its sign, Z that it is 0, V, U and the floating-point flags 0, no exception (42 R218 to R222). FR becomes a free value
(93 U5, log 24). -/
def Obligations.IntegerToFloatIsExact : Prop :=
  let holds {t u : OpType} (mk : Mode t → Mode u → Instr) : Prop :=
    ∀ (src : Mode t) (des : Mode u) (s s2 : State) (a : BitVec t.bits) (p : Place), Writes src des s a p s2 →
      ∃ x : BitVec u.bits, (fpFormat u).isFinite x.toNat = true ∧
        (fpFormat u).val x.toNat = (a.toInt : Rat) ∧ (a = 0 → x = 0) ∧
        ∀ s3, writePlace u p x { s2 with fr := Config.freeFaultBits s.freeCount } = .ok () s3 →
          Continues (mk src des) s
            { s3 with
              ps := Ps.withFp
                (Ps.withCond s.ps (decide (a.toInt < 0)) false (decide (a = 0)) (decide (a.toInt < 0)) false)
                false false false false false
              pc := s.following (mk src des).length }
            (modeRegisters src ++ modeRegisters des ++ placeRegisters u p) (placeBytes u p) 0x3FF
            (isStk src || isStk des)
  holds .cvbr ∧ holds .cvhr ∧ holds .cvbl ∧ holds .cvhl ∧ holds .cvwl

/-- CVRL and CVLR: how they end for the result `convert` of the two formats; Nan is Invalid; infinities and zeros keep
their sign; a Real converts to the Longreal of the same value; a Longreal is rounded to a Real by 43 R248 (42 R223,
R224). That a zero keeps its sign in CVLR is the model's choice (log 47); R223 says so of CVRL only. What FR holds after
them, also where the source is a Nan, is log 24: the bits of the first operand by the derived reading of R213 (R252),
the other bits free. That Invalid leaves C, N and Z and writes V and U with 0 is the spec's decision D25 (R250; log
31). -/
def Obligations.FloatToFloatConversions : Prop :=
  let real := fpFormat .real
  let long := fpFormat .long
  WritesFloat .cvrl (fun rc k a => real.convert long rc k a.toNat)
    (fun k a => faultOne real k a.toNat) ∧
  WritesFloat .cvlr (fun rc k a => long.convert real rc k a.toNat)
    (fun k a => faultOne long k a.toNat) ∧
  (∀ (f g : FpFormat) (rc : BitVec 2) (k x : Nat), (f = real ∧ g = long) ∨ (f = long ∧ g = real) →
    (f.isNan x = true → f.convert g rc k x = .invalid) ∧
    (f.isInf x = true → f.convert g rc k x =
      .value (g.pack (f.sign x) g.maxExp 0) (f.sign x) false false false false) ∧
    (f.isZero x = true → f.convert g rc k x =
      .value (g.pack (f.sign x) 0 0) false true false false false) ∧
    (f.isFinite x = true → f.isZero x = false →
      g.DeliversValue rc k (f.sign x) |f.val x| (f.convert g rc k x))) ∧
  (∀ (rc : BitVec 2) (k x : Nat), x < 2 ^ 32 → real.isFinite x = true → real.isZero x = false →
    ∃ y, real.convert long rc k x = .value y (real.sign x) false false false false ∧
      long.isFinite y = true ∧ long.val y = real.val x)

/-! ### Floating point (43) -/

/-- How the arithmetic instructions end, for the results of the operations: operands read, FR written from them, then
the stored result and flags or the exception of the result, in the order of 43 R246, R248, R250; the other statements
of this section say what the operations give. That Invalid and Zero Divide leave C, N and Z and write V and U with 0
is the spec's decision D25 (log 31); the bits of FR that R252 leaves open are free (log 24). -/
def Obligations.FloatingPointInstructionsDeliverTheirResult : Prop :=
  let real := fpFormat .real
  let long := fpFormat .long
  ModifiesFloat .addr real.add ∧ ModifiesFloat .addl long.add ∧
  ModifiesFloat .subr real.sub ∧ ModifiesFloat .subl long.sub ∧
  ModifiesFloat .sbrr real.sbr ∧ ModifiesFloat .sbrl long.sbr ∧
  ModifiesFloat .mulr real.mul ∧ ModifiesFloat .mull long.mul ∧
  ModifiesFloat .divr real.div ∧ ModifiesFloat .divl long.div ∧
  ModifiesFloat .dvrr real.dvr ∧ ModifiesFloat .dvrl long.dvr ∧
  ModifiesFloat .remr real.rem ∧ ModifiesFloat .reml long.rem ∧
  WritesFloat .sqtr (fun rc k a => real.sqrt rc k a.toNat) (fun k a => faultOne real k a.toNat) ∧
  WritesFloat .sqtl (fun rc k a => long.sqrt rc k a.toNat) (fun k a => faultOne long k a.toNat)

/-- Rounding is correct: for every positive rational number, sign and rounding mode, `round` gives FPResult: the
nearest pattern with ties to even, or the nearest one toward the direction of PS.RC, Inexact exactly when it differs,
Overflow and Underflow judged on the rounded exponent, the exponent field adjusted by the bias (43 R244, R248). That
Underflow is judged after rounding is the spec's decision D29 (log 31). -/
def Obligations.RoundingIsCorrect : Prop :=
  ∀ (t : OpType) (rc : BitVec 2) (k : Nat) (s : Bool) (num den : Nat) (e : Int), 0 < num → 0 < den →
    (fpFormat t).DeliversValue rc k s ((num : Rat) / den * 2 ^ e) ((fpFormat t).round rc k s num den e)

/-- Sums, differences, products and quotients of finite operands whose exact value is not zero are that value rounded
once (43 R253 to R258). -/
def Obligations.FiniteArithmeticIsExactThenRounded : Prop :=
  ∀ (t : OpType) (rc : BitVec 2) (k src dsrc : Nat),
    let f := fpFormat t
    f.isFinite src = true → f.isFinite dsrc = true →
    let delivers (v : Rat) (r : FpResult) : Prop := v ≠ 0 → f.DeliversValue rc k (decide (v < 0)) |v| r
    delivers (f.val src + f.val dsrc) (f.add rc k src dsrc) ∧
    delivers (f.val dsrc - f.val src) (f.sub rc k src dsrc) ∧
    delivers (f.val src - f.val dsrc) (f.sbr rc k src dsrc) ∧
    delivers (f.val src * f.val dsrc) (f.mul rc k src dsrc) ∧
    (f.isZero src = false → delivers (f.val dsrc / f.val src) (f.div rc k src dsrc)) ∧
    (f.isZero dsrc = false → delivers (f.val src / f.val dsrc) (f.dvr rc k src dsrc))

/-- The Nan, infinity and zero cases of the table of 43 R251, for add, subtract, multiply and divide; division of a
nonzero number by zero is Floating Zero Divide, infinite numerators included (43 R250, R251, R253 to R258). The spec
marks the table of R251 as from general knowledge, not in its source. The reverse forms are the same with the operands
exchanged. -/
def Obligations.FloatingPointSpecialCases : Prop :=
  ∀ (t : OpType) (rc : BitVec 2) (k a b : Nat),
    let f := fpFormat t
    let x := f.sign a != f.sign b
    let inf (s : Bool) : FpResult := .value (f.pack s f.maxExp 0) s false false false false
    let zero (s : Bool) : FpResult := .value (f.pack s 0 0) false true false false false
    f.sbr rc k a b = f.sub rc k b a ∧ f.dvr rc k a b = f.div rc k b a ∧
    (f.isNan a = true ∨ f.isNan b = true →
      f.add rc k a b = .invalid ∧ f.sub rc k a b = .invalid ∧ f.mul rc k a b = .invalid ∧
      f.div rc k a b = .invalid) ∧
    (f.isInf a = true → f.isInf b = true →
      f.add rc k a b = (if x then .invalid else inf (f.sign a)) ∧
      f.sub rc k a b = (if x then inf (f.sign b) else .invalid) ∧
      f.mul rc k a b = inf x ∧ f.div rc k a b = .invalid) ∧
    (f.isInf a = true → f.isFinite b = true →
      f.add rc k a b = inf (f.sign a) ∧ f.sub rc k a b = inf (!f.sign a) ∧
      f.mul rc k a b = (if f.isZero b then .invalid else inf x) ∧ f.div rc k a b = zero x) ∧
    (f.isFinite a = true → f.isInf b = true →
      f.add rc k a b = inf (f.sign b) ∧ f.sub rc k a b = inf (f.sign b) ∧
      f.mul rc k a b = (if f.isZero a then .invalid else inf x) ∧
      f.div rc k a b = (if f.isZero a then .zeroDivide else inf x)) ∧
    (f.isFinite a = true → f.isFinite b = true →
      (f.isZero a = true → f.isZero b = true →
        f.add rc k a b = zero (if x then rc == 2 else f.sign a) ∧
        f.sub rc k a b = zero (if x then f.sign b else rc == 2) ∧ f.div rc k a b = .invalid) ∧
      (f.isZero a = false → f.val a + f.val b = 0 → f.add rc k a b = zero (rc == 2)) ∧
      (f.isZero a = false → f.val b - f.val a = 0 → f.sub rc k a b = zero (rc == 2)) ∧
      (f.isZero a = true ∨ f.isZero b = true → f.mul rc k a b = zero x) ∧
      (f.isZero a = true → f.isZero b = false → f.div rc k a b = .zeroDivide) ∧
      (f.isZero a = false → f.isZero b = true → f.div rc k a b = zero x))

/-- SQT: Nan and numbers below zero are Invalid; a zero or plus infinity is its own root; any other root is the exact
one, correctly rounded (43 R260). The exact root is given by its cut: g is not above it when g * g is not above the
operand. -/
def Obligations.SquareRootIsCorrectlyRounded : Prop :=
  ∀ (t : OpType) (rc : BitVec 2) (k a : Nat),
    let f := fpFormat t
    (f.isNan a = true ∨ (f.sign a = true ∧ f.isZero a = false) → f.sqrt rc k a = .invalid) ∧
    (f.isZero a = true → f.sqrt rc k a = .value a false true false false false) ∧
    (f.isInf a = true → f.sign a = false → f.sqrt rc k a = .value a false false false false false) ∧
    (f.isFinite a = true → f.isZero a = false → f.sign a = false →
      f.Delivers rc k false (fun g => g * g ≤ f.val a) (fun g => f.val a ≤ g * g) (f.sqrt rc k a))

/-- REM: Nan, a zero divisor and an infinite dividend are Invalid; an infinite divisor leaves the dividend, a
denormalized one too (log 40); else dsrc - n * src, exact, with the sign of dsrc, where n is the truncated quotient,
or as many of its leading bits as the parameter REM_STEP says (the spec's decision D30; log 10), and Z says that the
exact remainder is below src in magnitude, also where it underflows (log 41) (43 R259). A Nan divisor or dividend and
an infinite one are read by R251, which the spec marks as from general knowledge. -/
def Obligations.FloatingPointRemainderIsExact : Prop :=
  ∀ (t : OpType) (rc : BitVec 2) (k src dsrc : Nat),
    let f := fpFormat t
    (f.isNan src = true ∨ f.isNan dsrc = true ∨ f.isZero src = true ∨ f.isInf dsrc = true →
      f.rem rc k src dsrc = .invalid) ∧
    (f.isInf src = true → f.isFinite dsrc = true →
      f.rem rc k src dsrc = .value dsrc (f.sign dsrc && !f.isZero dsrc) true false false false) ∧
    (f.isFinite src = true → f.isZero src = false → f.isFinite dsrc = true →
      let q : Rat := f.val dsrc / f.val src
      let truncated : Int := if 0 ≤ q then ⌊q⌋ else ⌈q⌉
      let size := truncated.natAbs
      let taken : Nat := match Config.remStep with
        | none => size
        | some j => size / 2 ^ (size.log2 - j) * 2 ^ (size.log2 - j)
      let v := f.val dsrc - ((truncated.sign * taken : Int) : Rat) * f.val src
      (v = 0 → f.rem rc k src dsrc =
        .value (f.pack (f.sign dsrc) 0 0) false true false false false) ∧
      (v ≠ 0 → ∃ r uf, f.DeliversValue rc k (f.sign dsrc) |v| (.value r (f.sign dsrc) false false uf false) ∧
        f.rem rc k src dsrc = .value r (f.sign dsrc) (decide (|v| < |f.val src|)) false uf false))

/-- NEG inverts the sign bit of any pattern, SGN gives the destination the sign of the source; N = C is the sign but
for a zero, Z says zero, no other flag is set and nothing is raised. That minus zero gives N = C = 0 and Z = 1, and a
Nan pattern N from its sign bit, is the spec's decision D28 (log 31); the bits of FR that 43 R252 leaves open are free
(log 24) (43 R247, R261, R262). -/
def Obligations.NegateAndCopySign : Prop :=
  let holdsNeg {t : OpType} (mk : Mode t → Mode t → Instr) : Prop :=
    let f := fpFormat t
    WritesFloat mk
      (fun _ _ a =>
        let x := (a ^^^ (1#t.bits <<< (t.bits - 1))).toNat
        .value x (f.sign x && !f.isZero x) (f.isZero x) false false false)
      (fun k a => faultOne f k a.toNat)
  let holdsSgn {t : OpType} (mk : Mode t → Mode t → Instr) : Prop :=
    let f := fpFormat t
    let top := 1#t.bits <<< (t.bits - 1)
    ModifiesFloat mk (fun _ _ a b =>
      let x := ((BitVec.ofNat t.bits a &&& top) ||| (BitVec.ofNat t.bits b &&& ~~~top)).toNat
      .value x (f.sign x && !f.isZero x) (f.isZero x) false false false)
  holdsNeg .negr ∧ holdsNeg .negl ∧ holdsSgn .sgnr ∧ holdsSgn .sgnl

/-- CMP: with a Nan operand U = 1 and C, N, Z 0 (the spec's decision D17), no exception; else C = N = (src < dsrc) and
Z = (src = dsrc) by value, infinities beyond every finite number; V and the floating-point flags 0; FR written, its
bits that R252 leaves open free (log 24) (43 R263). -/
def Obligations.FloatingPointCompareFlags : Prop :=
  let less (f : FpFormat) (a b : Nat) : Bool :=
    if f.isInf a && f.isInf b then f.sign a && !f.sign b
    else if f.isInf a then f.sign a
    else if f.isInf b then !f.sign b
    else decide (f.val a < f.val b)
  let same (f : FpFormat) (a b : Nat) : Bool :=
    if f.isInf a || f.isInf b then f.isInf a && f.isInf b && (f.sign a == f.sign b)
    else decide (f.val a = f.val b)
  let flags (f : FpFormat) (a b : Nat) : Bool × Bool × Bool × Bool :=
    if f.isNan a || f.isNan b then (false, false, false, true)
    else (less f a b, same f a b, less f a b, false)
  ComparesFloat .cmpr (flags (fpFormat .real)) ∧ ComparesFloat .cmpl (flags (fpFormat .long))

/-- FR after an instruction with two operands: bits 3 to 6 say of the source, bits 7 to 10 of the other operand,
whether its fraction is 0, its exponent field is 0, its exponent field is all ones, and its sign; with one operand
bits 3 to 6 alone. The other bits are free values (10 R22, 43 R252; 93 U5, log 24). -/
def Obligations.FaultRegisterDescribesTheOperands : Prop :=
  ∀ (t : OpType) (k a b : Nat),
    let f := fpFormat t
    let describes (w : Word) (i x : Nat) : Prop :=
      w.getLsbD i = (f.frac x == 0) ∧ w.getLsbD (i + 1) = (f.exp x == 0) ∧
      w.getLsbD (i + 2) = (f.exp x == 2 ^ f.expBits - 1) ∧ w.getLsbD (i + 3) = f.sign x
    describes (faultTwo f k a b) 3 a ∧ describes (faultTwo f k a b) 7 b ∧ describes (faultOne f k a) 3 a

/-! ### Control transfer and REPEAT (44) -/

/-- The twelve conditional branches: each condition; PS.REP cleared, no other flag changed, the field's side effects
kept whether or not the branch is taken (44 R290 marks that as derived); a signed branch that finds U = 1 sets IN and
raises Invalid instead (44 R290 to R303, R313; log 17). -/
def Obligations.ConditionalBranches : Prop :=
  let c (ps : Word) := ps.getLsbD 0
  let v (ps : Word) := ps.getLsbD 1
  let z (ps : Word) := ps.getLsbD 2
  let n (ps : Word) := ps.getLsbD 3
  let u (ps : Word) := ps.getLsbD 4
  Branches .bv false (fun ps => v ps) ∧ Branches .bnv false (fun ps => !v ps) ∧
  Branches .be false (fun ps => z ps) ∧ Branches .bne false (fun ps => !z ps) ∧
  Branches .bg true (fun ps => !(n ps || z ps)) ∧ Branches .bge true (fun ps => !n ps) ∧
  Branches .bl true (fun ps => n ps) ∧ Branches .ble true (fun ps => n ps || z ps) ∧
  Branches .bgu false (fun ps => !(c ps || z ps) || u ps) ∧
  Branches .bgeu false (fun ps => !c ps || u ps) ∧
  Branches .blu false (fun ps => c ps || u ps) ∧
  Branches .bleu false (fun ps => c ps || z ps || u ps)

/-- JMP goes to the operand address, clears PS.REP and leaves the shadow ROM. CALL pushes the address of the next
instruction, or two less than its own address when PS.REP was not 00, goes to the operand address and clears PS.REP;
the operand address is that of the SP before the push (44 R304, R305, R313; 70 R466). -/
def Obligations.JumpAndCall : Prop :=
  (∀ (src : Mode .address) (s s1 : State) (target : Word),
     addressOf s.sp src { s with ps := Ps.withRep s.ps 0 } = .ok target s1 →
     exec (.jmp src) s = .next { s1 with pc := target, dirty := [], romActive := false } ∧
       State.SameBut (modeRegisters src) (fun _ => false) 0xC0000000 false s s1 ∧ s1.fr = s.fr) ∧
  (∀ (src : Mode .address) (s s1 s2 : State) (target : Word),
     addressOf s.sp src { s with ps := Ps.withRep s.ps 0 } = .ok target s1 →
     let ret := if Ps.rep s.ps = 0 then s.pc + BitVec.ofNat 32 (Instr.call src).length else s.pc - 2
     writeMem false (s.sp - 4) 4 ret.toNat { s1 with sp := s.sp - 4 } = .ok () s2 →
     Continues (.call src) s { s2 with pc := target, dirty := [] } (modeRegisters src)
       (fun x => decide ((s.sp - 4).toNat ≤ x) && decide (x < (s.sp - 4).toNat + 4)) 0xC0000000 true ∧
     s1.ps = Ps.withRep s.ps 0 ∧ s2.ps = s1.ps ∧ s2.sp = s.sp - 4 ∧ s2.fr = s.fr)

/-- RET pops the address it goes to and clears PS.REP; RETP reads its operand first and adds it to SP after the pop
(44 R306, R307, R313). -/
def Obligations.ReturnsPopTheAddress : Prop :=
  (∀ (s s1 : State) (w : Nat), readMem false s.sp 4 { s with ps := Ps.withRep s.ps 0 } = .ok w s1 →
    Continues .ret s
        { s1 with
          pc := BitVec.ofNat 32 w
          sp := s.sp + 4
          dirty := [] } [] (fun _ => false) 0xC0000000 true ∧
      s1.ps = Ps.withRep s.ps 0 ∧ s1.fr = s.fr) ∧
  (∀ (src : Mode .word) (s s1 s2 : State) (v : Word) (w : Nat),
    readField s.sp src { s with ps := Ps.withRep s.ps 0 } = .ok v s1 →
    readMem false s1.sp 4 s1 = .ok w s2 →
    Continues (.retp src) s
        { s2 with
          pc := BitVec.ofNat 32 w
          sp := s1.sp + 4 + v
          dirty := [] } (modeRegisters src) (fun _ => false) 0xC0000000 true ∧
      s2.ps = Ps.withRep s.ps 0 ∧ s2.fr = s.fr)

/-- REP, REPZ and REPNZ with Register Direct set PS.REP and PS.REPREG, preset Z to 1 for REPZ and to 0 for REPNZ, and
change nothing else; with any other mode they raise Operand Error; s is the state that the fetch of the mode byte
leaves. That the prefix presets Z is the spec's decision D16 (log 31) (44 R310). -/
def Obligations.RepeatPrefixesSetTheMode : Prop :=
  let sets (mk : Mode .address → Instr) (mode : BitVec 2) (z : Bool → Bool) : Prop :=
    (∀ (s0 s : State) (r : Reg), fetchAccess s0.nextByte 1 s0 = .ok () s →
      ∃ ps, exec (mk (.register r)) s0 = .next { s with ps := ps, pc := s.pc + 2 } ∧
        Ps.rep ps = mode ∧ Ps.repReg ps = r ∧ Ps.z ps = z (Ps.z s.ps) ∧
        ps &&& 0x03FFFFFB = s.ps &&& 0x03FFFFFB) ∧
    (∀ (s0 s : State) (src : Mode .address), (∀ r, src ≠ .register r) → src ≠ .truncated none →
      fetchAccess s0.nextByte 1 s0 = .ok () s → exec (mk src) s0 = finish s0 (.exc 16 s))
  sets .rep 1 (fun z => z) ∧ sets .repz 2 (fun _ => true) ∧ sets .repnz 3 (fun _ => false)

/-! ### System instructions (45, 30 R96, R97) -/

/-- NOP, CLC, STC, CMC, EI, DI, ERON and EROF: each goes on to the next instruction and changes one bit or nothing (45
R330 to R332, R334, R336 to R339). -/
def Obligations.FlagInstructionsChangeOneBit : Prop :=
  ∀ (s : State),
    exec .nop s = .next { s with pc := s.following 1 } ∧
    exec .clc s = .next { s with ps := s.ps &&& 0xFFFFFFFE, pc := s.following 1 } ∧
    exec .stc s = .next { s with ps := s.ps ||| 0x00000001, pc := s.following 1 } ∧
    exec .cmc s = .next { s with ps := s.ps ^^^ 0x00000001, pc := s.following 1 } ∧
    exec .ei s = .next { s with ps := s.ps ||| 0x00100000, pc := s.following 1 } ∧
    exec .di s = .next { s with ps := s.ps &&& 0xFFEFFFFF, pc := s.following 1 } ∧
    exec .eron s = .next { s with errorFlag := true, pc := s.following 1 } ∧
    exec .erof s = .next { s with errorFlag := false, pc := s.following 1 }

/-- LDPR by register number: SP, CR (bits 23 to 0), PI (bits 30 to 0), TR, OE and IE (bits of existing ports) are
loaded, a load of SP below 2048 being Stack Overflow; FR, OR, IR, IP, PE, IO are left alone. That a number from 13 on
changes no register either is the model's choice (log 20): 45 R340 does not state it, 93 U12 refuses it or, as the model
has it, makes it no operation. To PS outside a REPEAT: every field is loaded; a value with a reserved bit or a REPEAT,
and a load under a REPEAT, are refused by name (45 R340, 10 R20; 93 U4, U16, U18, log 39). -/
def Obligations.LoadProcessorRegister : Prop :=
  (∀ (src : Mode .word) (des : Mode .byte) (s s2 : State) (v : Word) (k : Byte),
     Values src des s v k s2 →
     let pc := s.following (Instr.ldpr src des).length
     let i := Instr.ldpr src des
     let regs := modeRegisters src ++ modeRegisters des
     State.SameBut regs (fun _ => false) 0 (isStk src || isStk des) s s2 ∧ s2.fr = s.fr ∧
     (k = 0 → Continues i s { s2 with sp := v, pc := pc } regs (fun _ => false) 0 true) ∧
     (crossed s.sp s2.sp = false →
       (k = 3 → exec i s =
         .next { s2 with cr := (s.cr &&& 0xFF000000) ||| (v &&& 0x00FFFFFF), pc := pc }) ∧
       (k = 4 → exec i s =
         .next { s2 with pi := (s.pi &&& 0x80000000) ||| (v &&& 0x7FFFFFFF), pc := pc }) ∧
       (k = 5 → exec i s = .next { s2 with tr := v, pc := pc }) ∧
       (k = 8 → exec i s = .next { s2 with oe := v &&& 0x800003FF, pc := pc }) ∧
       (k = 9 → exec i s = .next { s2 with ie := v &&& 0x800003FF, pc := pc }) ∧
       (k = 2 ∨ k = 6 ∨ k = 7 ∨ 10 ≤ k.toNat → exec i s = .next { s2 with pc := pc }))) ∧
  (∀ (src : Mode .word) (des : Mode .byte) (s s2 : State) (v : Word),
     Values src des s v 1 s2 →
     (Ps.rep s.ps ≠ 0 → exec (.ldpr src des) s = .refused .repeatBeforeControl) ∧
     (Ps.rep s.ps = 0 → v &&& 0x00C07800 ≠ 0 → exec (.ldpr src des) s = .refused .reservedPsBits) ∧
     (Ps.rep s.ps = 0 → v &&& 0x00C07800 = 0 → Ps.rep v ≠ 0 →
       exec (.ldpr src des) s = .refused .repeatWithoutPrefix) ∧
     (Ps.rep s.ps = 0 → v &&& 0x00C07800 = 0 → Ps.rep v = 0 → crossed s.sp s2.sp = false →
       exec (.ldpr src des) s =
         .next { s2 with ps := v, pc := s.pc + BitVec.ofNat 32 (Instr.ldpr src des).length }))

/-- STPR: the register's value when both fields are evaluated, before the instruction's own flags, of SP the value at
the beginning of the instruction (log 42), stored as a Word, with N and Z from it, V and U 0, C unchanged; of a number
from 13 on a free value, the model's choice for 93 U12 (log 20). OR, IR and IP are views of the ports (log 25): the
bit of each port that is ready, or that holds a halfword while ready (45 R341; 10 R13, R26 to R28, R31). -/
def Obligations.StoreProcessorRegister : Prop :=
  (∀ (src : Mode .byte) (des : Mode .word) (s s1 s2 s3 : State) (k : Byte) (p : Place),
    readField s.sp src s = .ok k s1 → openWritten s.sp des s1 = .ok p s2 →
    let v := { s2 with sp := s.sp }.processorRegister k
    writePlace .word p v s2 = .ok () s3 →
    EndsInteger (.stpr src des) s (s3.flagged (Ps.c s.ps) false (decide (v = 0)) (v.getLsbD 31)) false
      (modeRegisters src ++ modeRegisters des ++ placeRegisters .word p) (placeBytes .word p) 0x1F
      (isStk src || isStk des)) ∧
  (∀ s : State,
    s.processorRegister 0 = s.sp ∧ s.processorRegister 1 = s.ps ∧ s.processorRegister 2 = s.fr ∧
    s.processorRegister 3 = s.cr ∧ s.processorRegister 4 = s.pi ∧ s.processorRegister 5 = s.tr ∧
    s.processorRegister 8 = s.oe ∧ s.processorRegister 9 = s.ie ∧ s.processorRegister 11 = s.pe ∧
    s.processorRegister 12 = s.io ∧
    ∀ (p : PortIx) (j : Nat), (p.val = 10 ∧ j = 31 ∨ p.val < 10 ∧ j = p.val) →
      (s.processorRegister 6).getLsbD j = decide ((s.outPorts.get p).count = 0) ∧
      (s.processorRegister 7).getLsbD j = decide ((s.inPorts.get p).count = 0) ∧
      (s.processorRegister 10).getLsbD j =
        (decide ((s.inPorts.get p).count = 0) && (s.inPorts.get p).latch.isSome)) ∧
  (∀ (s : State) (j : Nat), 10 ≤ j → j ≠ 31 →
    (s.processorRegister 6).getLsbD j = false ∧ (s.processorRegister 7).getLsbD j = false ∧
    (s.processorRegister 10).getLsbD j = false)

/-- TRAP with the unsigned Byte n, and BKPT with n = 2: PS and the address of the next instruction are pushed, PC and
PS are loaded from vector n. If that, or the operand, takes SP below 2048, Stack Overflow follows with the TRAP's own
address saved (45 R342, R343; 60 R404, R405, R416). -/
def Obligations.TrapAndBreakpointEnterTheirVector : Prop :=
  (∀ (src : Mode .byte) (s s1 : State) (n : Byte), readField s.sp src s = .ok n s1 →
    let next := s.pc + BitVec.ofNat 32 (Instr.trap src).length
    s1.canEnter n.toNat next → s.waiting = false →
    Continues (.trap src) s (s1.entered n.toNat next) (modeRegisters src) (pushedEight s1) 0xFFFFFFFF true ∧
      (s1.entered n.toNat next).fr = s.fr) ∧
  (∀ (s : State), s.canEnter 2 (s.pc + 1) → s.waiting = false →
    Continues .bkpt s (s.entered 2 (s.pc + 1)) [] (pushedEight s) 0xFFFFFFFF true ∧
      (s.entered 2 (s.pc + 1)).fr = s.fr)

/-- RETI and RETT pop PC, then PS with every field; RETI counts an Uncorrectable ECC interrupt as handled (the spec's
decision, 60 R419), RETT inhibits interrupts until the next instruction is completed. A popped PS with a reserved bit
is refused by name (93 U18, log 39); one with a nonzero REP resumes that repetition, for an edited image too, which 93
U4 would refuse: the model's choice (log 22) (45 R335, R333). -/
def Obligations.ReturnsFromInterrupt : Prop :=
  ∀ (s s1 s2 : State) (v w : Nat), readMem false s.sp 4 s = .ok v s1 →
    readMem false (s.sp + 4) 4 { s1 with sp := s.sp + 4 } = .ok w s2 →
    let pc := BitVec.ofNat 32 v
    let ps := BitVec.ofNat 32 w
    let t : State := { s2 with pc := pc, ps := ps, sp := s.sp + 8, dirty := [] }
    State.SameBut [] (fun _ => false) 0xFFFFFFFF true s t ∧ t.fr = s.fr ∧
    (ps &&& 0x00C07800 ≠ 0 →
      exec .reti s = .refused .reservedPsBits ∧ exec .rett s = .refused .reservedPsBits) ∧
    (ps &&& 0x00C07800 = 0 → crossed s.sp (s.sp + 8) = false →
      exec .reti s = .next { t with ueMarker := false } ∧
      exec .rett s = .next { t with inhibit := true })

/-- A return undoes an entry: after interrupt n is entered from s, with the pushed words still in memory, RETI
restores PC, PS and SP (60 R404, R406; 45 R335). -/
def Obligations.ReturnUndoesEntry : Prop :=
  ∀ (s t : State) (n : Nat) (q : Word), s.canEnter n q → Ps.legal s.ps = true →
    s.sp.toNat ≤ memoryBytes → 8 ≤ s.sp.toNat →
    t = s.entered n q →
    ∃ r, exec .reti t = .next r ∧ r.pc = q ∧ r.ps = s.ps ∧ r.sp = s.sp ∧ r.regs = s.regs

/-- WAIT goes on to the next instruction and idles; an idle processor's turn changes nothing but the schedule and the
visits it was given, whatever its ECC outcomes, until an interrupt is taken (45 R344). That an idle turn is a step is
log 33, that an empty schedule is the processor's turn log 1. RSET makes every port idle and empty, clears OE, IE, PE,
IO, the broadcast record and the pending memory errors, one corrected during RSET itself too (log 43), and nothing
else (45 R345, 60 R426). -/
def Obligations.WaitIdlesAndResetClearsThePorts : Prop :=
  ∀ (s : State),
    exec .wait s = .next { s with waiting := true, pc := s.following 1 } ∧
    (s.stuck = false → s.nextInterrupt = none → s.waiting = true →
      (s.schedule = [] → step s = .next { s with during := [] }) ∧
      ∀ eccs during rest, s.schedule = .processor eccs during :: rest →
        step s = .next { s with schedule := rest, during := during }) ∧
    exec .rset s = .next { s with
      pc := s.following 1
      inPorts := Vector.replicate 11
        { addr := 0, count := 0, latch := none, parityNoted := false, overrunNoted := false }
      outPorts := Vector.replicate 11 { addr := 0, count := 0, link := none }
      broadcast := none
      oe := 0
      ie := 0
      pe := 0
      io := 0
      cePending := false
      uePending := false }

/-- Every reserved and every escape opcode byte raises Unimplemented Opcode, entered with the address of the
instruction saved and nothing else changed first. That an escape opcode does is the spec's decision D9 (log 31); that
both are terms of the syntax is log 37 (30 R96, R97; 60 R414). -/
def Obligations.ReservedOpcodesEnterInterruptTen : Prop :=
  ∀ (op : Byte) (s : State), s.canEnter 10 s.pc → s.waiting = false → crossed s.sp (s.sp - 8) = false →
    exec (.res op) s = .next (s.entered 10 s.pc) ∧ exec (.esc op) s = .next (s.entered 10 s.pc) ∧
    State.SameBut [] (pushedEight s) 0xFFFFFFFF true s (s.entered 10 s.pc) ∧
    (s.entered 10 s.pc).fr = s.fr

/-! ### Communication (46) -/

/-- LPTR loads the address register of an idle port and LCNT its count register, the low bit forced to 0; LCNT on an
input port also clears its error flags and notes. Numbers that name no port, and ports in use, are refused by name (46
R361 to R364; 93 U8, U9, log 39). -/
def Obligations.PointerAndCountLoads : Prop :=
  ∀ (src : Mode .word) (des : Mode .byte) (s s2 : State) (v : Word) (n : Byte), Values src des s v n s2 →
    let even := v &&& 0xFFFFFFFE
    let ptr := Instr.lptr src des
    let cnt := Instr.lcnt src des
    (¬(n.toNat < 10 ∨ n.toNat = 31 ∨ (32 ≤ n.toNat ∧ n.toNat < 42) ∨ n.toNat = 63) →
      exec ptr s = .refused .noSuchPort ∧ exec cnt s = .refused .noSuchPort) ∧
    State.SameBut (modeRegisters src ++ modeRegisters des) (fun _ => false) 0 (isStk src || isStk des) s s2 ∧
    s2.fr = s.fr ∧
    ∀ p : PortIx, let bit := if p.val = 10 then 31 else p.val
      (n.toNat = bit →
        let q := s2.inPorts.get p
        (q.count ≠ 0 → exec ptr s = .refused .portBusy ∧ exec cnt s = .refused .portBusy) ∧
        (q.count = 0 → crossed s.sp s2.sp = false →
          exec ptr s = .next { s2 with
            inPorts := s2.inPorts.set p { q with addr := even }
            pc := s.following ptr.length } ∧
          exec cnt s = .next { s2 with
            inPorts := s2.inPorts.set p { q with count := even, parityNoted := false, overrunNoted := false }
            pe := s2.pe &&& ~~~(1#32 <<< bit)
            io := s2.io &&& ~~~(1#32 <<< bit)
            pc := s.following cnt.length })) ∧
      (n.toNat = 32 + bit →
        let q := s2.outPorts.get p
        (q.count ≠ 0 → exec ptr s = .refused .portBusy ∧ exec cnt s = .refused .portBusy) ∧
        (q.count = 0 → crossed s.sp s2.sp = false →
          exec ptr s = .next { s2 with
            outPorts := s2.outPorts.set p { q with addr := even }
            pc := s.following ptr.length } ∧
          exec cnt s = .next { s2 with
            outPorts := s2.outPorts.set p { q with count := even }
            pc := s.following cnt.length }))

/-- BPTR loads the address registers and BCNT the count registers of the output ports that the mask selects, the low
bit forced to 0; a nonzero count on a mask that is not empty starts a broadcast over it. Bits of ports that do not
exist and what 46 R366 forbids, a nonzero count during a broadcast whatever the mask among it, are refused by name (46
R361, R362, R365 to R367; 93 U8, U14, log 23). -/
def Obligations.BroadcastLoads : Prop :=
  ∀ (src des : Mode .word) (s s2 : State) (v m : Word), Values src des s v m s2 →
    let even := v &&& 0xFFFFFFFE
    let ptr := Instr.bptr src des
    let cnt := Instr.bcnt src des
    let selected (p : PortIx) : Prop := m.getLsbD (if p.val = 10 then 31 else p.val) = true
    State.SameBut (modeRegisters src ++ modeRegisters des) (fun _ => false) 0 (isStk src || isStk des) s s2 ∧
    s2.fr = s.fr ∧
    (m &&& 0x7FFFFC00 ≠ 0 → exec ptr s = .refused .noSuchPort ∧ exec cnt s = .refused .noSuchPort) ∧
    (m &&& 0x7FFFFC00 = 0 →
      ((∃ b, s2.broadcast = some b ∧ b &&& m ≠ 0) → exec ptr s = .refused .broadcastRule) ∧
      ((∀ b, s2.broadcast = some b → b &&& m = 0) → crossed s.sp s2.sp = false →
        ∃ t, exec ptr s = .next { s2 with outPorts := t, pc := s.following ptr.length } ∧
          ∀ p, (selected p → t.get p = { s2.outPorts.get p with addr := even }) ∧
            (¬selected p → t.get p = s2.outPorts.get p)) ∧
      ((∃ p, selected p ∧ (s2.outPorts.get p).count ≠ 0) → exec cnt s = .refused .broadcastRule) ∧
      (even ≠ 0 → s2.broadcast ≠ none → exec cnt s = .refused .broadcastRule) ∧
      (even ≠ 0 →
        (∃ p q, selected p ∧ selected q ∧ (s2.outPorts.get p).addr ≠ (s2.outPorts.get q).addr) →
        exec cnt s = .refused .broadcastRule) ∧
      ((∀ p, selected p → (s2.outPorts.get p).count = 0) →
        (even = 0 ∨ (s2.broadcast = none ∧
          ∀ p q, selected p → selected q → (s2.outPorts.get p).addr = (s2.outPorts.get q).addr)) →
        crossed s.sp s2.sp = false →
        ∃ t, exec cnt s = .next { s2 with
              outPorts := t
              broadcast := if even ≠ 0 ∧ m ≠ 0 then some m else s2.broadcast
              pc := s.following cnt.length } ∧
          ∀ p, (selected p → t.get p = { s2.outPorts.get p with count := even }) ∧
            (¬selected p → t.get p = s2.outPorts.get p)))

/-- The agents beside the processor. An enabled output step reads the halfword at the address register, puts it on the
free link and moves address and count by 2; the far end takes it off the link. An arriving halfword fills the latch,
noting a parity error and an overrun, which show in PE and IO at once if the count is 0 (the spec's decision D32; log
31); while the shadow ROM of an array node runs, an arrival that breaks the boot protocol is refused by name, one on a
second port among them even where an RSET has emptied the first one's latch (70 R485, 93 U19; log 27). An enabled
store step writes the latch to memory, empties it and moves address and count by 2; when the count becomes 0 the notes
show in PE and IO. A tick lowers TR by 1 and stops at 0. The host writes a halfword of an I/O node's memory, the boot
flag at location 0 not before both moves of the ROM, and has no window elsewhere (20 R73, 70 R469, the decision D35; log
28). The reset pin leaves the reset state, of a stuck machine too (70 R461, 60 R445); that in it memory from byte 8 on
is 0 (log 5, 30) and FR is 0 (log 4) is the model's choice, which R461 and R462 leave open. A link holds one halfword,
for which the port waits: the decision D33 (log 26) (46 R371, R373, R374, R376, R379; 20 R78; 60 R441). -/
def Obligations.AgentsMoveHalfwordsAndTime : Prop :=
  (∀ (s : State) (rest : List Event) (p : PortIx),
     let bit := if p.val = 10 then 31 else p.val
     let place (a : Word) : Nat := 2 * (a.extractLsb' 1 16).toNat
     s.stuck = false →
     (∀ q : OutPort, s.outPorts.get p = q →
       (q.count ≠ 0 → q.link = none →
         (∀ m, s.broadcast = some m → m.getLsbD bit = false) → s.schedule = .move (.send p) :: rest →
         step s = .next { s with
           schedule := rest
           outPorts := s.outPorts.set p
             { addr := q.addr + 2, count := q.count - 2
               link := some (s.mem.get (place q.addr + 1) ++ s.mem.get (place q.addr)) } }) ∧
       (s.schedule = .move (.linkTaken p) :: rest →
         step s = .next { s with schedule := rest, outPorts := s.outPorts.set p { q with link := none } })) ∧
     (∀ (q : InPort) (h : Half) (bad : Bool), s.inPorts.get p = q →
       s.schedule = .move (.arrive p h bad) :: rest →
       let booting := s.romActive = true ∧ s.pi.getLsbD 31 = false
       let allowed :=
         (∀ r, s.bootPort = some r → r = p) ∧
         (43 ≤ s.pc.toNat → s.regs.get 1 = BitVec.ofNat 32 bit) ∧
         (∀ r, r ≠ p → (s.inPorts.get r).latch = none ∧ (s.inPorts.get r).count = 0) ∧
         (q.latch ≠ none → 80 ≤ s.pc.toNat) ∧
         (q.latch = none → s.pc.toNat ≤ 46 → 1018 ≤ h.toNat ∧ h.getLsbD 0 = false)
       (booting → ¬allowed → step s = .refused .bootProtocol) ∧
       ((booting → allowed) → ∃ t, step s = .next t ∧ t.inPorts = s.inPorts.set p { q with
           latch := some h
           parityNoted := q.parityNoted || bad
           overrunNoted := q.overrunNoted || q.latch.isSome } ∧
         t.mem = s.mem ∧ t.regs = s.regs ∧ t.pc = s.pc ∧ t.ps = s.ps ∧ t.outPorts = s.outPorts ∧
         t.bootPort = (if s.romActive then some p else s.bootPort) ∧
         (q.count ≠ 0 → t.pe = s.pe ∧ t.io = s.io) ∧
         (q.count = 0 →
           t.pe.getLsbD bit = (s.pe.getLsbD bit || (q.parityNoted || bad)) ∧
           t.io.getLsbD bit = (s.io.getLsbD bit || (q.overrunNoted || q.latch.isSome)) ∧
           ∀ j, j ≠ bit → t.pe.getLsbD j = s.pe.getLsbD j ∧ t.io.getLsbD j = s.io.getLsbD j))) ∧
     (∀ (q : InPort) (h : Half), s.inPorts.get p = q → q.count ≠ 0 → q.latch = some h →
       s.schedule = .move (.storeLatch p) :: rest →
       ∃ t, step s = .next t ∧
         t.inPorts = s.inPorts.set p { q with addr := q.addr + 2, count := q.count - 2, latch := none } ∧
         (∀ x, t.mem.get x =
           if x = place q.addr then h.extractLsb' 0 8
           else if x = place q.addr + 1 then h.extractLsb' 8 8 else s.mem.get x) ∧
         t.regs = s.regs ∧ t.pc = s.pc ∧ t.ps = s.ps ∧ t.outPorts = s.outPorts ∧
         (q.count ≠ 2 → t.pe = s.pe ∧ t.io = s.io) ∧
         (q.count = 2 →
           t.pe.getLsbD bit = q.parityNoted ∧ t.io.getLsbD bit = q.overrunNoted ∧
           ∀ j, j ≠ bit → t.pe.getLsbD j = s.pe.getLsbD j ∧ t.io.getLsbD j = s.io.getLsbD j))) ∧
  (∀ (s : State) (rest : List Event), s.stuck = false → s.schedule = .move .tick :: rest →
     step s = .next { s with schedule := rest, tr := BitVec.ofNat 32 (s.tr.toNat - 1) }) ∧
  (∀ (s : State) (rest : List Event) (a : Word) (h : Half), s.stuck = false →
     s.schedule = .move (.hostWrite a h) :: rest →
     let window := s.pi.getLsbD 31 = true ∧ a.toNat < 0x20000
     let early := s.romActive = true ∧ s.pc.toNat < 29 ∧ a.toNat < 2
     (¬window → step s = .refused .noHostWindow) ∧
     (window → early → step s = .refused .bootProtocol) ∧
     (window → ¬early → ∃ t, step s = .next t ∧
       (∀ x, t.mem.get x =
         if x = a.toNat / 2 * 2 then h.extractLsb' 0 8
         else if x = a.toNat / 2 * 2 + 1 then h.extractLsb' 8 8 else s.mem.get x) ∧
       t.regs = s.regs ∧ t.pc = s.pc ∧ t.ps = s.ps ∧ t.inPorts = s.inPorts ∧ t.outPorts = s.outPorts)) ∧
  (∀ (s : State) (rest : List Event), s.schedule = .resetPin :: rest →
     step s = .next { State.reset with schedule := rest, freeCount := s.freeCount })

/-- One broadcast step reads one halfword and hands it to every selected port together; the record ends when their
counts are 0 (46 R366). The selected ports are taken as BPTR and BCNT leave them, with one address and one count. -/
def Obligations.BroadcastMovesAllPortsTogether : Prop :=
  ∀ (s : State) (rest : List Event) (m a c : Word) (h : Half),
    let selected (p : PortIx) : Prop := m.getLsbD (if p.val = 10 then 31 else p.val) = true
    let place : Nat := 2 * (a.extractLsb' 1 16).toNat
    s.stuck = false → s.schedule = .move .broadcastSend :: rest → s.broadcast = some m →
    (∃ p, selected p) → c ≠ 0 → h = s.mem.get (place + 1) ++ s.mem.get place →
    (∀ p, selected p → s.outPorts.get p = { addr := a, count := c, link := none }) →
    ∃ t, step s = .next { s with
        schedule := rest, outPorts := t, broadcast := if c = 2 then none else some m } ∧
      ∀ p, (selected p → t.get p = { addr := a + 2, count := c - 2, link := some h }) ∧
        (¬selected p → t.get p = s.outPorts.get p)

/-! ### Exceptions, interrupts and the timer (60) -/

/-- Taking an interrupt: PS pushed at SP - 4, the PC value at SP - 8, low-order byte first; SP lowered by 8; PC and PS
loaded from the vector at 8n and 8n + 4; no register and no other byte of memory changes. Memory is taken without
misaligned floating-point data, and no other agent moves meanwhile (60 R401, R404). -/
def Obligations.EntryPushesAndLoadsTheVector : Prop :=
  ∀ (s : State) (n : Nat) (q : Word), s.canEnter n q → s.Plain →
    0x808 ≤ s.sp.toNat →
    ∃ t, enterOnly n q s = .next t ∧ t.sp = s.sp - 8 ∧ t.regs = s.regs ∧ t.fr = s.fr ∧
      t.waiting = false ∧
      (∀ j, j < 4 → t.mem.get (s.sp.toNat - 4 + j) = s.ps.extractLsb' (8 * j) 8) ∧
      (∀ j, j < 4 → t.mem.get (s.sp.toNat - 8 + j) = q.extractLsb' (8 * j) 8) ∧
      (∀ x, x < s.sp.toNat - 8 ∨ s.sp.toNat ≤ x → t.mem.get x = s.mem.get x) ∧
      (∀ j, j < 4 → t.pc.extractLsb' (8 * j) 8 = s.mem.get (8 * n + j)) ∧
      (∀ j, j < 4 → t.ps.extractLsb' (8 * j) 8 = s.mem.get (8 * n + 4 + j))

/-- What keeps an interrupt from being entered. An Address Error inside the entry, at its first push or at its second,
sets ERROR and leaves the machine stuck; a stuck machine executes nothing more, whatever the schedule says but for the
reset pin (60 R407, R445; 93 U17, the spec's decision D34; log 14). A vector whose NPS has a reserved bit or a nonzero
REP is refused by name (93 U18, U4; log 39). While the shadow ROM is active an entry is a fault, which no run from
reset meets (70 R464; log 29). -/
def Obligations.FaultInsideAnEntryIsFinal : Prop :=
  (∀ (s : State) (n : Nat) (q : Word), s.romActive = false → memoryBytes < (s.sp - 4).toNat + 4 →
    ∃ t, enterOnly n q s = .next t ∧ t.stuck = true ∧ t.errorFlag = true ∧ t.mem = s.mem) ∧
  (∀ (s : State) (n : Nat) (q : Word), s.romActive = false → s.during = [] →
    (s.sp - 4).toNat + 4 ≤ memoryBytes → memoryBytes < (s.sp - 8).toNat + 4 →
    ∃ t, enterOnly n q s = .next t ∧ t.stuck = true ∧ t.errorFlag = true ∧
      t.mem = s.mem.write (s.sp - 4).toNat 4 s.ps.toNat) ∧
  (∀ (s : State) (n : Nat) (q : Word), s.romActive = false → s.during = [] → n < 256 →
    (s.sp - 4).toNat + 4 ≤ memoryBytes → (s.sp - 8).toNat + 4 ≤ memoryBytes →
    let nps := (s.entered n q).ps
    (nps &&& 0x00C07800 ≠ 0 → enterOnly n q s = .refused .reservedPsBits) ∧
    (nps &&& 0x00C07800 = 0 → Ps.rep nps ≠ 0 → enterOnly n q s = .refused .repeatWithoutPrefix)) ∧
  (∀ (s : State) (n : Nat) (q : Word), s.romActive = true → enterOnly n q s = .fault .exceptionInShadowRom) ∧
  (∀ (s : State), s.stuck = true → (∀ rest, s.schedule ≠ .resetPin :: rest) → step s = .fault .stuck)

/-- Stack Overflow: when an instruction takes SP from 2048 or more to less, or its value of SP before an interrupt
entry's own pushes was 2048 or more and is less after them, interrupt 12 is entered: with the instruction's address
saved, or the vector address just loaded; otherwise not (60 R416, the spec's decision D18 on "becomes"). Where the
instruction also raises an exception, that one is entered first and Stack Overflow after it, with the instruction's
address saved by both (60 R402 steps 1 and 2; log 12). -/
def Obligations.StackOverflowOnTheTransition : Prop :=
  (∀ (s t : State), t.stuck = false →
    (2048 ≤ s.sp.toNat ∧ t.sp.toNat < 2048 → finish s (.ok () t) = enterOnly 12 s.pc t) ∧
    (¬(2048 ≤ s.sp.toNat ∧ t.sp.toNat < 2048) → finish s (.ok () t) = .next t)) ∧
  (∀ (s : State) (n : Nat) (q : Word), s.canEnter n q → s.stuck = false →
    (2048 ≤ s.sp.toNat ∧ (s.sp - 8).toNat < 2048 →
      enter n q s = enterOnly 12 (s.entered n q).pc (s.entered n q)) ∧
    (¬(2048 ≤ s.sp.toNat ∧ (s.sp - 8).toNat < 2048) → enter n q s = .next (s.entered n q))) ∧
  (∀ (s t u : State) (n : Nat), enter n s.pc t = .next u →
    (2048 ≤ s.sp.toNat ∧ t.sp.toNat < 2048 → u.stuck = false →
      finish s (.exc n t) = enterOnly 12 s.pc u) ∧
    (¬(2048 ≤ s.sp.toNat ∧ t.sp.toNat < 2048) ∨ u.stuck = true → finish s (.exc n t) = .next u))

/-- Which interrupt is taken at a boundary: none while the shadow ROM is active or after RETT; else, of those whose
condition holds and whose enables are all 1, the one that the parameter INTERRUPT_PRIORITY ranks first, with the order
of 60 R402 between equal ranks (the spec's decision D13; log 11). The conditions: an uncorrectable memory error noted;
Trace, if an instruction has completed (log 32); and the levels TR = 0, a corrected memory error pending, an output
port ready, an input port ready without or with an error (that these are levels is the decision D31; log 31). The step
enters it, with the address of the next instruction saved, the condition of 14 or 15 cleared and the marker of 15 set,
and executes no instruction (60 R402 steps 3 to 6, R403, R405, R409, R419, R420 to R425; 46 R380, R381). -/
def Obligations.BoundaryInterrupts : Prop :=
  (∀ (s : State),
     let bit (p : PortIx) : Nat := if p.val = 10 then 31 else p.val
     let error (p : PortIx) : Bool := s.pe.getLsbD (bit p) || s.io.getLsbD (bit p)
     let ie := s.ps.getLsbD 20
     let raised (n : Nat) : Prop :=
       (n = 15 ∧ s.uePending = true) ∨
       (n = 1 ∧ s.traceDue = true ∧ s.ps.getLsbD 21 = true ∧ ie = true) ∨
       (n = 13 ∧ s.tr = 0 ∧ s.ps.getLsbD 17 = true ∧ ie = true) ∨
       (n = 14 ∧ s.cePending = true ∧ s.ps.getLsbD 16 = true ∧ ie = true) ∨
       (∃ p, n = 32 + bit p ∧ (s.outPorts.get p).count = 0 ∧ s.oe.getLsbD (bit p) = true ∧
         s.ps.getLsbD 19 = true ∧ ie = true) ∨
       (∃ p, n = 64 + bit p ∧ (s.inPorts.get p).count = 0 ∧ error p = false ∧
         s.ie.getLsbD (bit p) = true ∧ s.ps.getLsbD 18 = true ∧ ie = true) ∨
       (∃ p, n = 96 + bit p ∧ (s.inPorts.get p).count = 0 ∧ error p = true ∧
         s.ie.getLsbD (bit p) = true ∧ s.ps.getLsbD 18 = true ∧ ie = true)
     let rank := Config.interruptPriority
     let place (n : Nat) : Nat := if n = 15 then 0 else n
     (s.romActive = true ∨ s.inhibit = true → s.nextInterrupt = none) ∧
     (s.romActive = false → s.inhibit = false →
       ∀ n, s.nextInterrupt = some n ↔ raised n ∧
         ∀ k, k ≠ n → raised k → rank n < rank k ∨ (rank n = rank k ∧ place n < place k))) ∧
  (∀ (s : State) (n : Nat), s.schedule = [] → s.stuck = false → s.nextInterrupt = some n →
     s.canEnter n s.pc → crossed s.sp (s.sp - 8) = false →
     step s = .next { s.entered n s.pc with
       cePending := s.cePending && n != 14
       uePending := s.uePending && n != 15
       ueMarker := s.ueMarker || n == 15 })

/-- Memory errors. Every access of a turn is clean, corrected or uncorrectable (20 R70). An instruction in which an access
is corrected, and none uncorrectable, runs as ever, with the condition of interrupt 14 pending when it ends, unless it
is RSET (60 R418, R424): the model notes the error as the instruction begins, so that
RSET, which clears what is pending, clears this one too, which is its own choice (log 43). One that meets an
uncorrectable error is abandoned, with 14 pending too if an access before that one was corrected, or it was pending
already: in the state that `abandoned` gives, what it could have written is free, and the
rest is kept, as the frame below says. An instruction that a REPEAT skips could have written PS.REP alone; RES and ESC
nothing. Of one that is executed, nothing after the first field that faults is written; under a REPEAT the count could
be, and PS.REP only by a transfer; of PS else only the bits the instruction itself writes when it comes to its end.
For LDPR the frame says nothing of the register named (nor of SP and PS, which it can name). The step then makes
interrupt 15 pending, frees the PC that the next entry saves, and sets ERROR if an earlier error was not handled when
this one occurred. The step after that, where 15 is the interrupt to take, enters it: PC and PS from vector 15, its
marker set (60 R402 step 4, R419, R446; 93 U3, the spec's decision D15; log 21). That no Stack Overflow is entered
before it is the model's choice (log 44). So is what an error in an interrupt entry does, at a boundary or where the
opcode byte is outside memory: the entry is complete, with 14 or 15 pending after it (log 21, 49). -/
def Obligations.MemoryErrorsInterrupt : Prop :=
  let corrected (eccs : List Ecc) : Prop :=
    ∃ before after, eccs = before ++ .corrected :: after ∧ Ecc.uncorrectable ∉ before
  (∀ (s : State) (bs : List Byte) (eccs : List Ecc) (during : List (List Visit)) (sched : List Event) (i : Instr)
    (ce : Bool), s.schedule = .processor eccs during :: sched → (ce = true ↔ corrected eccs) →
    s.stuck = false → s.waiting = false → s.romActive = false → s.nextInterrupt = none →
    decode s.fetchBytes = .ok (i, bs) → s.staleCode i.length = false →
    let t : State := { s with
      schedule := sched, during := during, inhibit := false, traceDue := true, freeCount := s.freeCount + 1
      cePending := s.cePending || ce }
    ∀ u0, fetchOpcode t = .ok () u0 →
      u0.cePending = (s.cePending || ce) ∧
      (Ps.rep s.ps = 0 → Ecc.uncorrectable ∉ eccs → step s = exec i u0) ∧
      (Ecc.uncorrectable ∈ eccs → ∀ u, abandoned i u0 = .ok () u →
        step s = .next { u with
          pc := u.free 0
          uePending := true
          errorFlag := u.errorFlag || (s.ueMarker || s.uePending)
          freeCount := u.freeCount + 1 })) ∧
  (∀ (i : Instr) (s u : State), s.during = [] → Ps.rep s.ps ≠ 0 → isUnimplemented i = false →
    (Ps.rep s.ps = 2 ∧ Ps.z s.ps = false) ∨ (Ps.rep s.ps = 3 ∧ Ps.z s.ps = true) ∨ s.reg (Ps.repReg s.ps) = 0 →
    abandoned i s = .ok () u →
    ∃ ps, u = { s with ps := ps } ∧ ps &&& 0x3FFFFFFF = s.ps &&& 0x3FFFFFFF) ∧
  (∀ (s : State) (op : Byte), abandoned (.res op) s = .ok () s ∧ abandoned (.esc op) s = .ok () s) ∧
  (∀ (i : Instr) (s s1 u : State) (w : Touched), s.during = [] → isUnimplemented i = false →
    Ps.rep s.ps = 0 ∨ repeatEnds s = false →
    fieldsTouched s.sp none i.fields s = .ok w s1 → abandoned i s = .ok () u →
    let ended : Prop := w.evaluated = true ∧ stackInside i s1.sp = true ∧
      (w.storable = true ∨ flagsBeforeStore i = true)
    (∀ r, r ∉ w.regs → (Ps.rep s.ps ≠ 0 → r ≠ Ps.repReg s.ps) → u.regs.get r = s.regs.get r) ∧
    (∀ x, (∀ g ∈ w.ranges, x < g.1 ∨ g.1 + g.2 ≤ x) →
      (w.evaluated = true → ∀ g ∈ pushedWords i s1.sp, x < g.1 ∨ g.1 + g.2 ≤ x) → u.mem.get x = s.mem.get x) ∧
    ((∀ src des, i ≠ .ldpr src des) →
      (∀ j, j < 30 → (ended → (statusBits i s.ps).getLsbD j = false) → u.ps.getLsbD j = s.ps.getLsbD j) ∧
      ((isTransfer i = true → Ps.rep s.ps = 0) → (ended → statusBits i s.ps &&& 0xC0000000 = 0) →
        Ps.rep u.ps = Ps.rep s.ps) ∧
      (w.sp = false → (w.evaluated = true → movesSp i s1.sp = false) → u.sp = s.sp)) ∧
    (w.evaluated = false ∨ (∀ src des, i ≠ .ldpr src des) → u.cr = s.cr ∧ u.pi = s.pi ∧ u.tr = s.tr ∧
      (w.evaluated = false ∨ i ≠ .rset → u.oe = s.oe ∧ u.ie = s.ie ∧
        (w.evaluated = false ∨ ((∀ src des, i ≠ .lptr src des ∧ i ≠ .lcnt src des) ∧
            ∀ src des, i ≠ .bptr src des ∧ i ≠ .bcnt src des) →
          u.inPorts = s.inPorts ∧ u.outPorts = s.outPorts ∧ u.broadcast = s.broadcast ∧ u.pe = s.pe ∧
          u.io = s.io))) ∧
    (i ≠ .eron → i ≠ .erof → u.errorFlag = s.errorFlag) ∧
    (i ≠ .reti ∨ stackInside .reti s.sp = false → u.ueMarker = s.ueMarker) ∧
    (w.evaluated = false ∨ (∀ f ∈ i.fields, f.type.isFp = false) → u.fr = s.fr) ∧
    (i ≠ .rset → u.cePending = s.cePending) ∧ u.romActive = s.romActive ∧ u.waiting = s.waiting) ∧
  (∀ (s : State) (eccs : List Ecc) (ce : Bool) (sched : List Event) (n : Nat),
    s.schedule = .processor eccs [] :: sched → (ce = true ↔ corrected eccs) → s.stuck = false →
    let noted (t : State) : State := { t with
      pc := t.free 0
      uePending := true
      errorFlag := t.errorFlag || (s.ueMarker || s.uePending)
      freeCount := t.freeCount + 1 }
    let s0 : State := { s with schedule := sched, during := [] }
    let t : State := { s0.entered n s.pc with
      cePending := (s.cePending && n != 14) || ce
      uePending := s.uePending && n != 15
      ueMarker := s.ueMarker || n == 15 }
    let begun : State := { s0 with
      inhibit := false, traceDue := true, freeCount := s.freeCount + 1, cePending := s.cePending || ce }
    (s.nextInterrupt = some n → s0.canEnter n s.pc → crossed s.sp (s.sp - 8) = false →
      (Ecc.uncorrectable ∉ eccs → step s = .next t) ∧
      (Ecc.uncorrectable ∈ eccs → step s = .next (noted t))) ∧
    (s.nextInterrupt = none → s.waiting = false → s.romActive = false → 0x20000 ≤ s.pc.toNat →
      begun.canEnter 11 s.pc → crossed s.sp (s.sp - 8) = false → Ecc.uncorrectable ∈ eccs →
      step s = .next (noted (begun.entered 11 s.pc)))) ∧
  (∀ (s : State), s.schedule = [] → s.stuck = false → s.nextInterrupt = some 15 → s.canEnter 15 s.pc →
    crossed s.sp (s.sp - 8) = false → s.Plain → 0x808 ≤ s.sp.toNat →
    ∃ t, step s = .next t ∧ t.ueMarker = true ∧ t.uePending = false ∧ t.errorFlag = s.errorFlag ∧
      t.regs = s.regs ∧ t.sp = s.sp - 8 ∧
      (∀ j, j < 4 → t.mem.get (s.sp.toNat - 8 + j) = s.pc.extractLsb' (8 * j) 8) ∧
      (∀ j, j < 4 → t.pc.extractLsb' (8 * j) 8 = s.mem.get (120 + j)) ∧
      (∀ j, j < 4 → t.ps.extractLsb' (8 * j) 8 = s.mem.get (124 + j)))

/-! ### Address Error in an instruction (20 R64, 60 R415) -/

/-- Address Error, entered by `finish` with the address of the instruction saved. It is met by a field that memory
cuts off, a pointer outside memory, an operand outside memory; by an instruction in its first field, in its second one
after the first, and in the write of its destination after both, each time with the side effects so far; by a pop, and
by the push of CALL; and by the fetch of an opcode byte above 0x1FFFF (20 R64, 30 R116, R123, 60 R405, R415, R431).
The whole access is checked and earlier side effects stay: the spec's decisions D4 and D5 (log 31). The model's own
choices: a field that memory cuts off is the pseudo mode `truncated` (log 37); branches, JMP, CALL, RET and RETP have
PS.REP cleared before their operand, pop or push, so that the PS saved has REP 00 (log 17; 44 R313 gives no order);
where the destination of a move or conversion of floating-point data is outside memory, FR is written (log 45); an
Address Error of the second field leaves FR (log 48). -/
def Obligations.AddressErrorsSaveTheInstruction : Prop :=
  let outside (a : Word) (n : Nat) : Prop := 0x20000 < a.toNat + n
  (∀ (t : OpType) (k : Access) (m : Mode t) (s s1 : State) (sp0 : Word) (r : Reg) (w a : Word),
    (modeIllegal k m = false → m.isTruncated = true → locate k sp0 m s = .exc 11 s) ∧
    (k ≠ .reg →
      (outside (s.reg r) 4 → locate k sp0 (.autoincInd r : Mode t) s = .exc 11 s) ∧
      (outside (s.reg r + w) 4 → locate k sp0 (.wordOffRegInd r w : Mode t) s = .exc 11 s) ∧
      (outside (s.pc + w) 4 → locate k sp0 (.wordOffPcInd w : Mode t) s = .exc 11 s) ∧
      (outside (sp0 + w) 4 → locate k sp0 (.wordOffSpInd w : Mode t) s = .exc 11 s) ∧
      (outside w 4 → locate k sp0 (.wordIndirect w : Mode t) s = .exc 11 s)) ∧
    (outside a t.len →
      (locateField .r sp0 m s = .ok (.mem a) s1 →
        readField sp0 m s = .exc 11 s1 ∧ ∀ x : Mode t, readSecond sp0 x m s = .exc 11 s1) ∧
      (locateField .rw sp0 m s = .ok (.mem a) s1 → openModified sp0 m s = .exc 11 s1) ∧
      ∀ v, writePlace t (.mem a) v s = .exc 11 s)) ∧
  (∀ (i : Instr) (f : Field) (fs : List Field) (s t : State), i.fields = f :: fs → f.access = .r →
    (∀ m, i ≠ .retp m) → readField s.sp f.mode s = .exc 11 t → exec i s = finish s (.exc 11 t)) ∧
  (∀ (src : Mode .word) (s t : State), readField s.sp src { s with ps := Ps.withRep s.ps 0 } = .exc 11 t →
    exec (.retp src) s = finish s (.exc 11 t)) ∧
  (∀ (i : Instr) (f g : Field) (s s1 t : State) (v : BitVec f.type.bits), i.fields = [f, g] → f.access = .r →
    readField s.sp f.mode s = .ok v s1 →
    (g.access = .r → readSecond s.sp f.mode g.mode s1 = .exc 11 t → exec i s = finish s (.exc 11 t)) ∧
    (g.access = .v → readField s.sp g.mode s1 = .exc 11 t → exec i s = finish s (.exc 11 t)) ∧
    (g.access = .rw → openModified s.sp g.mode s1 = .exc 11 t → exec i s = finish s (.exc 11 t)) ∧
    (g.access = .w → openWritten s.sp g.mode s1 = .exc 11 t → exec i s = finish s (.exc 11 t)) ∧
    (g.access = .w → (f.type.isFp = false ∨ (∃ a b, i = .movr a b) ∨ ∃ a b, i = .movl a b) →
      ∀ a, openWritten s.sp g.mode s1 = .ok (.mem a) t → outside a g.type.len →
      ∃ fr, exec i s = finish s (.exc 11 { t with fr := fr }) ∧ (g.type.isFp = false → fr = s.fr))) ∧
  (let writes {t u : OpType} (mk : Mode t → Mode u → Instr) (valid : BitVec 2 → Nat → Nat → Prop) : Prop :=
     ∀ (src : Mode t) (des : Mode u) (s s1 s2 : State) (v : BitVec t.bits) (a : Word),
       readField s.sp src s = .ok v s1 → openWritten s.sp des s1 = .ok (.mem a) s2 → outside a u.len →
       valid (Ps.rc s.ps) s.freeCount v.toNat →
       exec (mk src des) s = finish s (.exc 11 { s2 with fr := faultOne (fpFormat t) s.freeCount v.toNat })
   writes .negr (fun _ _ _ => True) ∧ writes .negl (fun _ _ _ => True) ∧
   writes .sqtr (fun rc k x => (fpFormat .real).sqrt rc k x ≠ .invalid) ∧
   writes .sqtl (fun rc k x => (fpFormat .long).sqrt rc k x ≠ .invalid) ∧
   writes .cvrl (fun _ _ x => (fpFormat .real).isNan x = false) ∧
   writes .cvlr (fun _ _ x => (fpFormat .long).isNan x = false)) ∧
  (∀ (src : Mode .address) (des : Mode .word) (s s1 t : State) (v : Word),
    (addressOf s.sp src s = .exc 11 t → exec (.mova src des) s = finish s (.exc 11 t)) ∧
    (addressOf s.sp src s = .ok v s1 →
      (openWritten s.sp des s1 = .exc 11 t → exec (.mova src des) s = finish s (.exc 11 t)) ∧
      ∀ a, openWritten s.sp des s1 = .ok (.mem a) t → outside a 4 →
        exec (.mova src des) s = finish s (.exc 11 t))) ∧
  (∀ (src : Mode .address) (s t : State), addressOf s.sp src { s with ps := Ps.withRep s.ps 0 } = .exc 11 t →
    ∀ mk ∈ ([.jmp, .call, .bv, .bnv, .be, .bne, .bg, .bge, .bl, .ble, .bgu, .bgeu, .blu, .bleu] :
      List (Mode .address → Instr)), exec (mk src) s = finish s (.exc 11 t)) ∧
  (∀ (src : Mode .address) (s s1 : State) (target : Word),
    addressOf s.sp src { s with ps := Ps.withRep s.ps 0 } = .ok target s1 → outside (s.sp - 4) 4 →
    exec (.call src) s = finish s (.exc 11 { s1 with sp := s.sp - 4 })) ∧
  (∀ (s : State), outside s.sp 4 →
    exec .ret s = finish s (.exc 11 { s with ps := Ps.withRep s.ps 0 }) ∧
    exec .reti s = finish s (.exc 11 s) ∧ exec .rett s = finish s (.exc 11 s)) ∧
  (∀ (s s1 : State) (w : Nat), readMem false s.sp 4 s = .ok w s1 → outside (s.sp + 4) 4 →
    exec .reti s = finish s (.exc 11 { s1 with sp := s.sp + 4 }) ∧
    exec .rett s = finish s (.exc 11 { s1 with sp := s.sp + 4 })) ∧
  (∀ (src : Mode .word) (s s1 : State) (v : Word),
    readField s.sp src { s with ps := Ps.withRep s.ps 0 } = .ok v s1 → outside s1.sp 4 →
    exec (.retp src) s = finish s (.exc 11 s1)) ∧
  (∀ (s : State), s.stuck = false → s.waiting = false → s.nextInterrupt = none → s.schedule = [] →
    s.romActive = false →
    let t : State := { s with
      during := [], inhibit := false, traceDue := true, freeCount := s.freeCount + 1 }
    (0x20000 ≤ s.pc.toNat → step s = finish t (.exc 11 t)) ∧
    ∀ i, decode s.fetchBytes = .error (.truncatedField i) → s.staleCode i.length = false → Ps.rep s.ps = 0 →
      step s = exec i t) ∧
  (∀ (s t : State) (n : Nat), crossed s.sp t.sp = false → finish s (.exc n t) = enter n s.pc t)
end

