-- ==== Sys2Proof/Laws/Memory.lean ====
section
/-! SUPPORT. The laws of memory: reading after writing, and the canonical form, which every memory operation
keeps. -/

namespace Sys2Proof.Machine

/-! ### One byte -/

theorem Memory.get_filter_self (m : Memory) (a : Nat) :
    Memory.get (m.filter (fun c => c.1 != a)) a = 0 := by
  induction m with
  | nil => rfl
  | cons c m ih =>
    obtain ⟨k, b⟩ := c
    by_cases h : k = a
    · simp [h, ih]
    · simp [h, Memory.get, ih]

theorem Memory.get_filter_of_ne (m : Memory) {a x : Nat} (hx : x ≠ a) :
    Memory.get (m.filter (fun c => c.1 != a)) x = m.get x := by
  induction m with
  | nil => rfl
  | cons c m ih =>
    obtain ⟨k, b⟩ := c
    by_cases h : k = a
    · subst h
      simp [Memory.get, ih, Ne.symm hx]
    · simp [h, Memory.get, ih]

theorem Memory.get_insertCell_self (m : Memory) (a : Nat) (v : Byte)
    (h : ∀ c ∈ m, c.1 ≠ a) : (m.insertCell a v).get a = v := by
  induction m with
  | nil => simp [Memory.insertCell, Memory.get]
  | cons c m ih =>
    obtain ⟨k, b⟩ := c
    have hk : k ≠ a := h (k, b) (by simp)
    have ih := ih fun c hc => h c (by simp [hc])
    by_cases hl : a < k
    · simp [Memory.insertCell, hl, Memory.get]
    · simp [Memory.insertCell, hl, Memory.get, hk, ih]

theorem Memory.get_insertCell_of_ne (m : Memory) {a x : Nat} (v : Byte) (hx : x ≠ a) :
    (m.insertCell a v).get x = m.get x := by
  induction m with
  | nil => simp [Memory.insertCell, Memory.get, Ne.symm hx]
  | cons c m ih =>
    obtain ⟨k, b⟩ := c
    by_cases hl : a < k
    · simp [Memory.insertCell, hl, Memory.get, Ne.symm hx]
    · simp [Memory.insertCell, hl, Memory.get, ih]

/-- A byte reads as it was last written. -/
@[simp] theorem Memory.get_set_self (m : Memory) (a : Nat) (v : Byte) : (m.set a v).get a = v := by
  unfold Memory.set
  split
  · rename_i h
    rw [Memory.get_filter_self, h]
  · exact Memory.get_insertCell_self _ _ _ (by simp)

/-- A write leaves every other byte alone. -/
theorem Memory.get_set_of_ne (m : Memory) {a x : Nat} (v : Byte) (hx : x ≠ a) :
    (m.set a v).get x = m.get x := by
  unfold Memory.set
  split
  · exact Memory.get_filter_of_ne m hx
  · rw [Memory.get_insertCell_of_ne _ _ hx, Memory.get_filter_of_ne m hx]

/-- What a byte reads after one byte is written. -/
theorem Memory.get_set (m : Memory) (a x : Nat) (v : Byte) :
    (m.set a v).get x = if x = a then v else m.get x := by
  split
  · rename_i h
    rw [h, Memory.get_set_self]
  · rename_i h
    exact Memory.get_set_of_ne m v h

/-! ### Runs of bytes -/

/-- A write leaves the bytes outside its range alone. -/
theorem Memory.get_write_of_not_mem (m : Memory) (a n v x : Nat) (h : x < a ∨ a + n ≤ x) :
    (m.write a n v).get x = m.get x := by
  induction n generalizing m a v with
  | zero => rfl
  | succ n ih =>
    rw [Memory.write, ih _ _ _ (by omega), Memory.get_set_of_ne _ _ (by omega)]

/-- The bytes of a written value, low-order byte first (20 R62). -/
theorem Memory.get_write (m : Memory) (a n v i : Nat) (h : i < n) :
    (m.write a n v).get (a + i) = BitVec.ofNat 8 (v / 256 ^ i) := by
  induction n generalizing m a v i with
  | zero => omega
  | succ n ih =>
    rw [Memory.write]
    cases i with
    | zero => rw [Memory.get_write_of_not_mem _ _ _ _ _ (by omega)]; simp
    | succ i =>
      have := ih (m.set a (BitVec.ofNat 8 v)) (a + 1) (v / 256) i (by omega)
      rw [show a + (i + 1) = a + 1 + i by omega, this, Nat.div_div_eq_div_mul, Nat.pow_succ,
        Nat.mul_comm 256]

/-- A write that leaves out no address is a write. -/
@[simp] theorem Memory.writeRest_nil (m : Memory) (a n v : Nat) : m.writeRest [] a n v = m.write a n v := by
  induction n generalizing m a v with
  | zero => rfl
  | succ n ih => simp [Memory.writeRest, Memory.write, ih]

/-- What the bytes are after a write that leaves out the addresses of a list. -/
theorem Memory.get_writeRest (m : Memory) (done : List Nat) (a n v x : Nat) :
    (m.writeRest done a n v).get x =
      if a ≤ x ∧ x < a + n ∧ x ∉ done then BitVec.ofNat 8 (v / 256 ^ (x - a)) else m.get x := by
  induction n generalizing m a v with
  | zero => simp [Memory.writeRest]; omega
  | succ n ih =>
    rw [Memory.writeRest, ih]
    by_cases hx : x = a
    · subst hx
      by_cases hd : x ∈ done <;> simp [hd]
    · have h1 : (a + 1 ≤ x ∧ x < a + 1 + n ∧ x ∉ done) ↔ (a ≤ x ∧ x < a + (n + 1) ∧ x ∉ done) := by
        constructor <;> rintro ⟨h, h', h''⟩ <;> exact ⟨by omega, by omega, h''⟩
      simp only [h1]
      split
      · rename_i h
        rw [show x - a = (x - (a + 1)) + 1 by omega, Nat.div_div_eq_div_mul, Nat.pow_succ, Nat.mul_comm 256]
      · split
        · rfl
        · exact Memory.get_set_of_ne _ _ hx

/-! ### The canonical form -/

theorem Memory.wfFrom_mono {lo lo' : Nat} {m : Memory} (h : lo' ≤ lo)
    (hm : Memory.wfFrom lo m = true) : Memory.wfFrom lo' m = true := by
  cases m with
  | nil => rfl
  | cons c m =>
    obtain ⟨k, b⟩ := c
    simp only [Memory.wfFrom, Bool.and_eq_true, decide_eq_true_eq] at hm ⊢
    exact ⟨⟨⟨by omega, hm.1.1.2⟩, hm.1.2⟩, hm.2⟩

theorem Memory.wfFrom_filter {lo : Nat} {m : Memory} (a : Nat) (hm : Memory.wfFrom lo m = true) :
    Memory.wfFrom lo (m.filter (fun c => c.1 != a)) = true := by
  induction m generalizing lo with
  | nil => rfl
  | cons c m ih =>
    obtain ⟨k, b⟩ := c
    simp only [Memory.wfFrom, Bool.and_eq_true, decide_eq_true_eq] at hm
    by_cases h : k = a
    · simp only [h, List.filter_cons, bne_self_eq_false, Bool.false_eq_true, if_false]
      exact Memory.wfFrom_mono (by omega) (ih hm.2)
    · simp only [List.filter_cons, bne_iff_ne.2 h, if_true, Memory.wfFrom, Bool.and_eq_true,
        decide_eq_true_eq]
      exact ⟨hm.1, ih hm.2⟩

theorem Memory.wfFrom_insertCell {lo : Nat} {m : Memory} {a : Nat} {v : Byte}
    (hm : Memory.wfFrom lo m = true) (hlo : lo ≤ a) (ha : a < memoryBytes) (hv : v ≠ 0)
    (hn : ∀ c ∈ m, c.1 ≠ a) : Memory.wfFrom lo (m.insertCell a v) = true := by
  induction m generalizing lo with
  | nil => simpa [Memory.insertCell, Memory.wfFrom, hlo, ha] using hv
  | cons c m ih =>
    obtain ⟨k, b⟩ := c
    have hk : k ≠ a := hn (k, b) (by simp)
    simp only [Memory.wfFrom, Bool.and_eq_true, decide_eq_true_eq] at hm
    by_cases hl : a < k
    · simp only [Memory.insertCell, hl, if_true, Memory.wfFrom, Bool.and_eq_true, decide_eq_true_eq]
      exact ⟨⟨⟨hlo, ha⟩, by simpa using hv⟩, ⟨⟨⟨by omega, hm.1.1.2⟩, hm.1.2⟩, hm.2⟩⟩
    · simp only [Memory.insertCell, hl, if_false, Memory.wfFrom, Bool.and_eq_true, decide_eq_true_eq]
      exact ⟨hm.1, ih hm.2 (by omega) fun c hc => hn c (by simp [hc])⟩

/-- Writing a byte of memory keeps the canonical form. -/
theorem Memory.wf_set {m : Memory} {a : Nat} {v : Byte} (hm : m.wf = true) (ha : a < memoryBytes) :
    (m.set a v).wf = true := by
  unfold Memory.set
  split
  · exact Memory.wfFrom_filter a hm
  · exact Memory.wfFrom_insertCell (Memory.wfFrom_filter a hm) (by omega) ha ‹_› (by simp)

/-- Writing bytes of memory keeps the canonical form. -/
theorem Memory.wf_write {m : Memory} {a n v : Nat} (hm : m.wf = true) (ha : a + n ≤ memoryBytes) :
    (m.write a n v).wf = true := by
  induction n generalizing m a v with
  | zero => exact hm
  | succ n ih =>
    rw [Memory.write]
    exact ih (Memory.wf_set hm (by omega)) (by omega)

/-- Writing the bytes that are left keeps the canonical form. -/
theorem Memory.wf_writeRest {m : Memory} {done : List Nat} {a n v : Nat} (hm : m.wf = true)
    (ha : a + n ≤ memoryBytes) : (m.writeRest done a n v).wf = true := by
  induction n generalizing m a v with
  | zero => exact hm
  | succ n ih =>
    rw [Memory.writeRest]
    refine ih ?_ (by omega)
    split
    · exact hm
    · exact Memory.wf_set hm (by omega)

/-- Placing code keeps the canonical form. -/
theorem Memory.wf_storeBytes {m : Memory} {a : Nat} {bs : List Byte} (hm : m.wf = true)
    (ha : a + bs.length ≤ memoryBytes) : (storeBytes m a bs).wf = true := by
  induction bs generalizing m a with
  | nil => exact hm
  | cons b bs ih =>
    rw [List.length_cons] at ha
    exact ih (Memory.wf_set hm (by omega)) (by omega)

/-- The memory of the machine after reset has the canonical form. -/
theorem reset_mem_wf : State.reset.mem.wf = true := by
  show Memory.afterReset.wf = true
  decide

/-- A checked access lies inside memory (20 R64). -/
theorem inMemory_iff (a : Word) (n : Nat) : inMemory a n = true ↔ a.toNat + n ≤ memoryBytes := by
  simp [inMemory]

/-- The store of a State keeps the canonical form where the access is inside memory. -/
theorem State.wf_store {s : State} {k : Storer} {a n v : Nat} (hm : s.mem.wf = true)
    (ha : a + n ≤ memoryBytes) : (s.store k a n v).mem.wf = true :=
  Memory.wf_write hm ha

end Sys2Proof.Machine
end

