-- ==== Sys2Proof/Laws/State.lean ====
section
/-! SUPPORT. What each update of the state does to each field: one lemma per field per update, all true by
definition, so that no proof unfolds a record update. -/

namespace Sys2Proof.Machine

/-! ### State.setReg -/

@[simp] theorem State.setReg_regs (s : State) (n : Reg) (v : Word) :
    (s.setReg n v).regs = s.regs.set n v := rfl

@[simp] theorem State.setReg_pc (s : State) (n : Reg) (v : Word) : (s.setReg n v).pc = s.pc := rfl

@[simp] theorem State.setReg_sp (s : State) (n : Reg) (v : Word) : (s.setReg n v).sp = s.sp := rfl

@[simp] theorem State.setReg_ps (s : State) (n : Reg) (v : Word) : (s.setReg n v).ps = s.ps := rfl

@[simp] theorem State.setReg_fr (s : State) (n : Reg) (v : Word) : (s.setReg n v).fr = s.fr := rfl

@[simp] theorem State.setReg_cr (s : State) (n : Reg) (v : Word) : (s.setReg n v).cr = s.cr := rfl

@[simp] theorem State.setReg_pi (s : State) (n : Reg) (v : Word) : (s.setReg n v).pi = s.pi := rfl

@[simp] theorem State.setReg_tr (s : State) (n : Reg) (v : Word) : (s.setReg n v).tr = s.tr := rfl

@[simp] theorem State.setReg_oe (s : State) (n : Reg) (v : Word) : (s.setReg n v).oe = s.oe := rfl

@[simp] theorem State.setReg_ie (s : State) (n : Reg) (v : Word) : (s.setReg n v).ie = s.ie := rfl

@[simp] theorem State.setReg_pe (s : State) (n : Reg) (v : Word) : (s.setReg n v).pe = s.pe := rfl

@[simp] theorem State.setReg_io (s : State) (n : Reg) (v : Word) : (s.setReg n v).io = s.io := rfl

@[simp] theorem State.setReg_inPorts (s : State) (n : Reg) (v : Word) :
    (s.setReg n v).inPorts = s.inPorts := rfl

@[simp] theorem State.setReg_outPorts (s : State) (n : Reg) (v : Word) :
    (s.setReg n v).outPorts = s.outPorts := rfl

@[simp] theorem State.setReg_broadcast (s : State) (n : Reg) (v : Word) :
    (s.setReg n v).broadcast = s.broadcast := rfl

@[simp] theorem State.setReg_mem (s : State) (n : Reg) (v : Word) :
    (s.setReg n v).mem = s.mem := rfl

@[simp] theorem State.setReg_errorFlag (s : State) (n : Reg) (v : Word) :
    (s.setReg n v).errorFlag = s.errorFlag := rfl

@[simp] theorem State.setReg_romActive (s : State) (n : Reg) (v : Word) :
    (s.setReg n v).romActive = s.romActive := rfl

@[simp] theorem State.setReg_inhibit (s : State) (n : Reg) (v : Word) :
    (s.setReg n v).inhibit = s.inhibit := rfl

@[simp] theorem State.setReg_ueMarker (s : State) (n : Reg) (v : Word) :
    (s.setReg n v).ueMarker = s.ueMarker := rfl

@[simp] theorem State.setReg_uePending (s : State) (n : Reg) (v : Word) :
    (s.setReg n v).uePending = s.uePending := rfl

@[simp] theorem State.setReg_cePending (s : State) (n : Reg) (v : Word) :
    (s.setReg n v).cePending = s.cePending := rfl

@[simp] theorem State.setReg_waiting (s : State) (n : Reg) (v : Word) :
    (s.setReg n v).waiting = s.waiting := rfl

@[simp] theorem State.setReg_stuck (s : State) (n : Reg) (v : Word) :
    (s.setReg n v).stuck = s.stuck := rfl

@[simp] theorem State.setReg_traceDue (s : State) (n : Reg) (v : Word) :
    (s.setReg n v).traceDue = s.traceDue := rfl

@[simp] theorem State.setReg_dirty (s : State) (n : Reg) (v : Word) :
    (s.setReg n v).dirty = s.dirty := rfl

@[simp] theorem State.setReg_pairHazard (s : State) (n : Reg) (v : Word) :
    (s.setReg n v).pairHazard = pairAfter n s.pairHazard := rfl

@[simp] theorem State.setReg_pieceHazard (s : State) (n : Reg) (v : Word) :
    (s.setReg n v).pieceHazard = pieceAfter n s.pairHazard s.pieceHazard := rfl

@[simp] theorem State.setReg_written (s : State) (n : Reg) (v : Word) :
    (s.setReg n v).written = s.written := rfl

@[simp] theorem State.setReg_freeCount (s : State) (n : Reg) (v : Word) :
    (s.setReg n v).freeCount = s.freeCount := rfl

@[simp] theorem State.setReg_during (s : State) (n : Reg) (v : Word) :
    (s.setReg n v).during = s.during := rfl

@[simp] theorem State.setReg_nextByte (s : State) (n : Reg) (v : Word) :
    (s.setReg n v).nextByte = s.nextByte := rfl

@[simp] theorem State.setReg_bootPort (s : State) (n : Reg) (v : Word) :
    (s.setReg n v).bootPort = s.bootPort := rfl

@[simp] theorem State.setReg_schedule (s : State) (n : Reg) (v : Word) :
    (s.setReg n v).schedule = s.schedule := rfl

/-! ### State.setPair -/

@[simp] theorem State.setPair_regs (s : State) (n : Reg) (v : Long) :
    (s.setPair n v).regs = (s.regs.set n (v.extractLsb' 0 32)).set (n + 1).val (v.extractLsb' 32 32) (n + 1).isLt := rfl

@[simp] theorem State.setPair_pc (s : State) (n : Reg) (v : Long) : (s.setPair n v).pc = s.pc := rfl

@[simp] theorem State.setPair_sp (s : State) (n : Reg) (v : Long) : (s.setPair n v).sp = s.sp := rfl

@[simp] theorem State.setPair_ps (s : State) (n : Reg) (v : Long) : (s.setPair n v).ps = s.ps := rfl

@[simp] theorem State.setPair_fr (s : State) (n : Reg) (v : Long) : (s.setPair n v).fr = s.fr := rfl

@[simp] theorem State.setPair_cr (s : State) (n : Reg) (v : Long) : (s.setPair n v).cr = s.cr := rfl

@[simp] theorem State.setPair_pi (s : State) (n : Reg) (v : Long) : (s.setPair n v).pi = s.pi := rfl

@[simp] theorem State.setPair_tr (s : State) (n : Reg) (v : Long) : (s.setPair n v).tr = s.tr := rfl

@[simp] theorem State.setPair_oe (s : State) (n : Reg) (v : Long) : (s.setPair n v).oe = s.oe := rfl

@[simp] theorem State.setPair_ie (s : State) (n : Reg) (v : Long) : (s.setPair n v).ie = s.ie := rfl

@[simp] theorem State.setPair_pe (s : State) (n : Reg) (v : Long) : (s.setPair n v).pe = s.pe := rfl

@[simp] theorem State.setPair_io (s : State) (n : Reg) (v : Long) : (s.setPair n v).io = s.io := rfl

@[simp] theorem State.setPair_inPorts (s : State) (n : Reg) (v : Long) :
    (s.setPair n v).inPorts = s.inPorts := rfl

@[simp] theorem State.setPair_outPorts (s : State) (n : Reg) (v : Long) :
    (s.setPair n v).outPorts = s.outPorts := rfl

@[simp] theorem State.setPair_broadcast (s : State) (n : Reg) (v : Long) :
    (s.setPair n v).broadcast = s.broadcast := rfl

@[simp] theorem State.setPair_mem (s : State) (n : Reg) (v : Long) :
    (s.setPair n v).mem = s.mem := rfl

@[simp] theorem State.setPair_errorFlag (s : State) (n : Reg) (v : Long) :
    (s.setPair n v).errorFlag = s.errorFlag := rfl

@[simp] theorem State.setPair_romActive (s : State) (n : Reg) (v : Long) :
    (s.setPair n v).romActive = s.romActive := rfl

@[simp] theorem State.setPair_inhibit (s : State) (n : Reg) (v : Long) :
    (s.setPair n v).inhibit = s.inhibit := rfl

@[simp] theorem State.setPair_ueMarker (s : State) (n : Reg) (v : Long) :
    (s.setPair n v).ueMarker = s.ueMarker := rfl

@[simp] theorem State.setPair_uePending (s : State) (n : Reg) (v : Long) :
    (s.setPair n v).uePending = s.uePending := rfl

@[simp] theorem State.setPair_cePending (s : State) (n : Reg) (v : Long) :
    (s.setPair n v).cePending = s.cePending := rfl

@[simp] theorem State.setPair_waiting (s : State) (n : Reg) (v : Long) :
    (s.setPair n v).waiting = s.waiting := rfl

@[simp] theorem State.setPair_stuck (s : State) (n : Reg) (v : Long) :
    (s.setPair n v).stuck = s.stuck := rfl

@[simp] theorem State.setPair_traceDue (s : State) (n : Reg) (v : Long) :
    (s.setPair n v).traceDue = s.traceDue := rfl

@[simp] theorem State.setPair_dirty (s : State) (n : Reg) (v : Long) :
    (s.setPair n v).dirty = s.dirty := rfl

@[simp] theorem State.setPair_pairHazard (s : State) (n : Reg) (v : Long) :
    (s.setPair n v).pairHazard = if n.val % 2 = 1 then n :: (n + 1) :: pairAfter (n + 1) (pairAfter n s.pairHazard) else pairAfter (n + 1) (pairAfter n s.pairHazard) := rfl

@[simp] theorem State.setPair_pieceHazard (s : State) (n : Reg) (v : Long) :
    (s.setPair n v).pieceHazard = if n.val % 2 = 1 then s.pieceHazard.filter (fun r => r ≠ n ∧ r ≠ n + 1) else pieceAfter (n + 1) (pairAfter n s.pairHazard) (pieceAfter n s.pairHazard s.pieceHazard) := rfl

@[simp] theorem State.setPair_written (s : State) (n : Reg) (v : Long) :
    (s.setPair n v).written = s.written := rfl

@[simp] theorem State.setPair_freeCount (s : State) (n : Reg) (v : Long) :
    (s.setPair n v).freeCount = s.freeCount := rfl

@[simp] theorem State.setPair_during (s : State) (n : Reg) (v : Long) :
    (s.setPair n v).during = s.during := rfl

@[simp] theorem State.setPair_nextByte (s : State) (n : Reg) (v : Long) :
    (s.setPair n v).nextByte = s.nextByte := rfl

@[simp] theorem State.setPair_bootPort (s : State) (n : Reg) (v : Long) :
    (s.setPair n v).bootPort = s.bootPort := rfl

@[simp] theorem State.setPair_schedule (s : State) (n : Reg) (v : Long) :
    (s.setPair n v).schedule = s.schedule := rfl

/-! ### State.store -/

@[simp] theorem State.store_regs (s : State) (k : Storer) (a n v : Nat) :
    (s.store k a n v).regs = s.regs := rfl

@[simp] theorem State.store_pc (s : State) (k : Storer) (a n v : Nat) :
    (s.store k a n v).pc = s.pc := rfl

@[simp] theorem State.store_sp (s : State) (k : Storer) (a n v : Nat) :
    (s.store k a n v).sp = s.sp := rfl

@[simp] theorem State.store_ps (s : State) (k : Storer) (a n v : Nat) :
    (s.store k a n v).ps = s.ps := rfl

@[simp] theorem State.store_fr (s : State) (k : Storer) (a n v : Nat) :
    (s.store k a n v).fr = s.fr := rfl

@[simp] theorem State.store_cr (s : State) (k : Storer) (a n v : Nat) :
    (s.store k a n v).cr = s.cr := rfl

@[simp] theorem State.store_pi (s : State) (k : Storer) (a n v : Nat) :
    (s.store k a n v).pi = s.pi := rfl

@[simp] theorem State.store_tr (s : State) (k : Storer) (a n v : Nat) :
    (s.store k a n v).tr = s.tr := rfl

@[simp] theorem State.store_oe (s : State) (k : Storer) (a n v : Nat) :
    (s.store k a n v).oe = s.oe := rfl

@[simp] theorem State.store_ie (s : State) (k : Storer) (a n v : Nat) :
    (s.store k a n v).ie = s.ie := rfl

@[simp] theorem State.store_pe (s : State) (k : Storer) (a n v : Nat) :
    (s.store k a n v).pe = s.pe := rfl

@[simp] theorem State.store_io (s : State) (k : Storer) (a n v : Nat) :
    (s.store k a n v).io = s.io := rfl

@[simp] theorem State.store_inPorts (s : State) (k : Storer) (a n v : Nat) :
    (s.store k a n v).inPorts = s.inPorts := rfl

@[simp] theorem State.store_outPorts (s : State) (k : Storer) (a n v : Nat) :
    (s.store k a n v).outPorts = s.outPorts := rfl

@[simp] theorem State.store_broadcast (s : State) (k : Storer) (a n v : Nat) :
    (s.store k a n v).broadcast = s.broadcast := rfl

@[simp] theorem State.store_mem (s : State) (k : Storer) (a n v : Nat) :
    (s.store k a n v).mem = s.mem.write a n v := rfl

@[simp] theorem State.store_errorFlag (s : State) (k : Storer) (a n v : Nat) :
    (s.store k a n v).errorFlag = s.errorFlag := rfl

@[simp] theorem State.store_romActive (s : State) (k : Storer) (a n v : Nat) :
    (s.store k a n v).romActive = s.romActive := rfl

@[simp] theorem State.store_inhibit (s : State) (k : Storer) (a n v : Nat) :
    (s.store k a n v).inhibit = s.inhibit := rfl

@[simp] theorem State.store_ueMarker (s : State) (k : Storer) (a n v : Nat) :
    (s.store k a n v).ueMarker = s.ueMarker := rfl

@[simp] theorem State.store_uePending (s : State) (k : Storer) (a n v : Nat) :
    (s.store k a n v).uePending = s.uePending := rfl

@[simp] theorem State.store_cePending (s : State) (k : Storer) (a n v : Nat) :
    (s.store k a n v).cePending = s.cePending := rfl

@[simp] theorem State.store_waiting (s : State) (k : Storer) (a n v : Nat) :
    (s.store k a n v).waiting = s.waiting := rfl

@[simp] theorem State.store_stuck (s : State) (k : Storer) (a n v : Nat) :
    (s.store k a n v).stuck = s.stuck := rfl

@[simp] theorem State.store_traceDue (s : State) (k : Storer) (a n v : Nat) :
    (s.store k a n v).traceDue = s.traceDue := rfl

@[simp] theorem State.store_dirty (s : State) (k : Storer) (a n v : Nat) :
    (s.store k a n v).dirty = (a, n) :: s.dirty := rfl

@[simp] theorem State.store_pairHazard (s : State) (k : Storer) (a n v : Nat) :
    (s.store k a n v).pairHazard = s.pairHazard := rfl

@[simp] theorem State.store_pieceHazard (s : State) (k : Storer) (a n v : Nat) :
    (s.store k a n v).pieceHazard = s.pieceHazard := rfl

@[simp] theorem State.store_written (s : State) (k : Storer) (a n v : Nat) :
    (s.store k a n v).written = storesAfter k a n s.written := rfl

@[simp] theorem State.store_freeCount (s : State) (k : Storer) (a n v : Nat) :
    (s.store k a n v).freeCount = s.freeCount := rfl

@[simp] theorem State.store_during (s : State) (k : Storer) (a n v : Nat) :
    (s.store k a n v).during = s.during := rfl

@[simp] theorem State.store_nextByte (s : State) (k : Storer) (a n v : Nat) :
    (s.store k a n v).nextByte = s.nextByte := rfl

@[simp] theorem State.store_bootPort (s : State) (k : Storer) (a n v : Nat) :
    (s.store k a n v).bootPort = s.bootPort := rfl

@[simp] theorem State.store_schedule (s : State) (k : Storer) (a n v : Nat) :
    (s.store k a n v).schedule = s.schedule := rfl

/-! ### State.advance -/

@[simp] theorem State.advance_regs (s : State) (n : Nat) : (s.advance n).regs = s.regs := rfl

@[simp] theorem State.advance_pc (s : State) (n : Nat) : (s.advance n).pc = s.following n := rfl

@[simp] theorem State.advance_sp (s : State) (n : Nat) : (s.advance n).sp = s.sp := rfl

@[simp] theorem State.advance_ps (s : State) (n : Nat) : (s.advance n).ps = s.ps := rfl

@[simp] theorem State.advance_fr (s : State) (n : Nat) : (s.advance n).fr = s.fr := rfl

@[simp] theorem State.advance_cr (s : State) (n : Nat) : (s.advance n).cr = s.cr := rfl

@[simp] theorem State.advance_pi (s : State) (n : Nat) : (s.advance n).pi = s.pi := rfl

@[simp] theorem State.advance_tr (s : State) (n : Nat) : (s.advance n).tr = s.tr := rfl

@[simp] theorem State.advance_oe (s : State) (n : Nat) : (s.advance n).oe = s.oe := rfl

@[simp] theorem State.advance_ie (s : State) (n : Nat) : (s.advance n).ie = s.ie := rfl

@[simp] theorem State.advance_pe (s : State) (n : Nat) : (s.advance n).pe = s.pe := rfl

@[simp] theorem State.advance_io (s : State) (n : Nat) : (s.advance n).io = s.io := rfl

@[simp] theorem State.advance_inPorts (s : State) (n : Nat) :
    (s.advance n).inPorts = s.inPorts := rfl

@[simp] theorem State.advance_outPorts (s : State) (n : Nat) :
    (s.advance n).outPorts = s.outPorts := rfl

@[simp] theorem State.advance_broadcast (s : State) (n : Nat) :
    (s.advance n).broadcast = s.broadcast := rfl

@[simp] theorem State.advance_mem (s : State) (n : Nat) : (s.advance n).mem = s.mem := rfl

@[simp] theorem State.advance_errorFlag (s : State) (n : Nat) :
    (s.advance n).errorFlag = s.errorFlag := rfl

@[simp] theorem State.advance_romActive (s : State) (n : Nat) :
    (s.advance n).romActive = s.romActive := rfl

@[simp] theorem State.advance_inhibit (s : State) (n : Nat) :
    (s.advance n).inhibit = s.inhibit := rfl

@[simp] theorem State.advance_ueMarker (s : State) (n : Nat) :
    (s.advance n).ueMarker = s.ueMarker := rfl

@[simp] theorem State.advance_uePending (s : State) (n : Nat) :
    (s.advance n).uePending = s.uePending := rfl

@[simp] theorem State.advance_cePending (s : State) (n : Nat) :
    (s.advance n).cePending = s.cePending := rfl

@[simp] theorem State.advance_waiting (s : State) (n : Nat) :
    (s.advance n).waiting = s.waiting := rfl

@[simp] theorem State.advance_stuck (s : State) (n : Nat) : (s.advance n).stuck = s.stuck := rfl

@[simp] theorem State.advance_traceDue (s : State) (n : Nat) :
    (s.advance n).traceDue = s.traceDue := rfl

@[simp] theorem State.advance_dirty (s : State) (n : Nat) : (s.advance n).dirty = s.dirty := rfl

@[simp] theorem State.advance_pairHazard (s : State) (n : Nat) :
    (s.advance n).pairHazard = s.pairHazard := rfl

@[simp] theorem State.advance_pieceHazard (s : State) (n : Nat) :
    (s.advance n).pieceHazard = s.pieceHazard := rfl

@[simp] theorem State.advance_written (s : State) (n : Nat) :
    (s.advance n).written = s.written := rfl

@[simp] theorem State.advance_freeCount (s : State) (n : Nat) :
    (s.advance n).freeCount = s.freeCount := rfl

@[simp] theorem State.advance_during (s : State) (n : Nat) : (s.advance n).during = s.during := rfl

@[simp] theorem State.advance_nextByte (s : State) (n : Nat) :
    (s.advance n).nextByte = s.nextByte := rfl

@[simp] theorem State.advance_bootPort (s : State) (n : Nat) :
    (s.advance n).bootPort = s.bootPort := rfl

@[simp] theorem State.advance_schedule (s : State) (n : Nat) :
    (s.advance n).schedule = s.schedule := rfl

/-! ### State.jumpTo -/

@[simp] theorem State.jumpTo_regs (s : State) (t : Word) : (s.jumpTo t).regs = s.regs := rfl

@[simp] theorem State.jumpTo_pc (s : State) (t : Word) : (s.jumpTo t).pc = t := rfl

@[simp] theorem State.jumpTo_sp (s : State) (t : Word) : (s.jumpTo t).sp = s.sp := rfl

@[simp] theorem State.jumpTo_ps (s : State) (t : Word) : (s.jumpTo t).ps = s.ps := rfl

@[simp] theorem State.jumpTo_fr (s : State) (t : Word) : (s.jumpTo t).fr = s.fr := rfl

@[simp] theorem State.jumpTo_cr (s : State) (t : Word) : (s.jumpTo t).cr = s.cr := rfl

@[simp] theorem State.jumpTo_pi (s : State) (t : Word) : (s.jumpTo t).pi = s.pi := rfl

@[simp] theorem State.jumpTo_tr (s : State) (t : Word) : (s.jumpTo t).tr = s.tr := rfl

@[simp] theorem State.jumpTo_oe (s : State) (t : Word) : (s.jumpTo t).oe = s.oe := rfl

@[simp] theorem State.jumpTo_ie (s : State) (t : Word) : (s.jumpTo t).ie = s.ie := rfl

@[simp] theorem State.jumpTo_pe (s : State) (t : Word) : (s.jumpTo t).pe = s.pe := rfl

@[simp] theorem State.jumpTo_io (s : State) (t : Word) : (s.jumpTo t).io = s.io := rfl

@[simp] theorem State.jumpTo_inPorts (s : State) (t : Word) :
    (s.jumpTo t).inPorts = s.inPorts := rfl

@[simp] theorem State.jumpTo_outPorts (s : State) (t : Word) :
    (s.jumpTo t).outPorts = s.outPorts := rfl

@[simp] theorem State.jumpTo_broadcast (s : State) (t : Word) :
    (s.jumpTo t).broadcast = s.broadcast := rfl

@[simp] theorem State.jumpTo_mem (s : State) (t : Word) : (s.jumpTo t).mem = s.mem := rfl

@[simp] theorem State.jumpTo_errorFlag (s : State) (t : Word) :
    (s.jumpTo t).errorFlag = s.errorFlag := rfl

@[simp] theorem State.jumpTo_romActive (s : State) (t : Word) :
    (s.jumpTo t).romActive = s.romActive := rfl

@[simp] theorem State.jumpTo_inhibit (s : State) (t : Word) :
    (s.jumpTo t).inhibit = s.inhibit := rfl

@[simp] theorem State.jumpTo_ueMarker (s : State) (t : Word) :
    (s.jumpTo t).ueMarker = s.ueMarker := rfl

@[simp] theorem State.jumpTo_uePending (s : State) (t : Word) :
    (s.jumpTo t).uePending = s.uePending := rfl

@[simp] theorem State.jumpTo_cePending (s : State) (t : Word) :
    (s.jumpTo t).cePending = s.cePending := rfl

@[simp] theorem State.jumpTo_waiting (s : State) (t : Word) :
    (s.jumpTo t).waiting = s.waiting := rfl

@[simp] theorem State.jumpTo_stuck (s : State) (t : Word) : (s.jumpTo t).stuck = s.stuck := rfl

@[simp] theorem State.jumpTo_traceDue (s : State) (t : Word) :
    (s.jumpTo t).traceDue = s.traceDue := rfl

@[simp] theorem State.jumpTo_dirty (s : State) (t : Word) : (s.jumpTo t).dirty = [] := rfl

@[simp] theorem State.jumpTo_pairHazard (s : State) (t : Word) :
    (s.jumpTo t).pairHazard = s.pairHazard := rfl

@[simp] theorem State.jumpTo_pieceHazard (s : State) (t : Word) :
    (s.jumpTo t).pieceHazard = s.pieceHazard := rfl

@[simp] theorem State.jumpTo_written (s : State) (t : Word) :
    (s.jumpTo t).written = s.written := rfl

@[simp] theorem State.jumpTo_freeCount (s : State) (t : Word) :
    (s.jumpTo t).freeCount = s.freeCount := rfl

@[simp] theorem State.jumpTo_during (s : State) (t : Word) : (s.jumpTo t).during = s.during := rfl

@[simp] theorem State.jumpTo_nextByte (s : State) (t : Word) :
    (s.jumpTo t).nextByte = s.nextByte := rfl

@[simp] theorem State.jumpTo_bootPort (s : State) (t : Word) :
    (s.jumpTo t).bootPort = s.bootPort := rfl

@[simp] theorem State.jumpTo_schedule (s : State) (t : Word) :
    (s.jumpTo t).schedule = s.schedule := rfl

/-! ### State.setFlags -/

@[simp] theorem State.setFlags_regs {w : Nat} (s : State) (r : AluResult w) :
    (s.setFlags r).regs = s.regs := rfl

@[simp] theorem State.setFlags_pc {w : Nat} (s : State) (r : AluResult w) :
    (s.setFlags r).pc = s.pc := rfl

@[simp] theorem State.setFlags_sp {w : Nat} (s : State) (r : AluResult w) :
    (s.setFlags r).sp = s.sp := rfl

@[simp] theorem State.setFlags_ps {w : Nat} (s : State) (r : AluResult w) :
    (s.setFlags r).ps = Ps.withCond s.ps r.c r.v r.z r.n false := rfl

@[simp] theorem State.setFlags_fr {w : Nat} (s : State) (r : AluResult w) :
    (s.setFlags r).fr = s.fr := rfl

@[simp] theorem State.setFlags_cr {w : Nat} (s : State) (r : AluResult w) :
    (s.setFlags r).cr = s.cr := rfl

@[simp] theorem State.setFlags_pi {w : Nat} (s : State) (r : AluResult w) :
    (s.setFlags r).pi = s.pi := rfl

@[simp] theorem State.setFlags_tr {w : Nat} (s : State) (r : AluResult w) :
    (s.setFlags r).tr = s.tr := rfl

@[simp] theorem State.setFlags_oe {w : Nat} (s : State) (r : AluResult w) :
    (s.setFlags r).oe = s.oe := rfl

@[simp] theorem State.setFlags_ie {w : Nat} (s : State) (r : AluResult w) :
    (s.setFlags r).ie = s.ie := rfl

@[simp] theorem State.setFlags_pe {w : Nat} (s : State) (r : AluResult w) :
    (s.setFlags r).pe = s.pe := rfl

@[simp] theorem State.setFlags_io {w : Nat} (s : State) (r : AluResult w) :
    (s.setFlags r).io = s.io := rfl

@[simp] theorem State.setFlags_inPorts {w : Nat} (s : State) (r : AluResult w) :
    (s.setFlags r).inPorts = s.inPorts := rfl

@[simp] theorem State.setFlags_outPorts {w : Nat} (s : State) (r : AluResult w) :
    (s.setFlags r).outPorts = s.outPorts := rfl

@[simp] theorem State.setFlags_broadcast {w : Nat} (s : State) (r : AluResult w) :
    (s.setFlags r).broadcast = s.broadcast := rfl

@[simp] theorem State.setFlags_mem {w : Nat} (s : State) (r : AluResult w) :
    (s.setFlags r).mem = s.mem := rfl

@[simp] theorem State.setFlags_errorFlag {w : Nat} (s : State) (r : AluResult w) :
    (s.setFlags r).errorFlag = s.errorFlag := rfl

@[simp] theorem State.setFlags_romActive {w : Nat} (s : State) (r : AluResult w) :
    (s.setFlags r).romActive = s.romActive := rfl

@[simp] theorem State.setFlags_inhibit {w : Nat} (s : State) (r : AluResult w) :
    (s.setFlags r).inhibit = s.inhibit := rfl

@[simp] theorem State.setFlags_ueMarker {w : Nat} (s : State) (r : AluResult w) :
    (s.setFlags r).ueMarker = s.ueMarker := rfl

@[simp] theorem State.setFlags_uePending {w : Nat} (s : State) (r : AluResult w) :
    (s.setFlags r).uePending = s.uePending := rfl

@[simp] theorem State.setFlags_cePending {w : Nat} (s : State) (r : AluResult w) :
    (s.setFlags r).cePending = s.cePending := rfl

@[simp] theorem State.setFlags_waiting {w : Nat} (s : State) (r : AluResult w) :
    (s.setFlags r).waiting = s.waiting := rfl

@[simp] theorem State.setFlags_stuck {w : Nat} (s : State) (r : AluResult w) :
    (s.setFlags r).stuck = s.stuck := rfl

@[simp] theorem State.setFlags_traceDue {w : Nat} (s : State) (r : AluResult w) :
    (s.setFlags r).traceDue = s.traceDue := rfl

@[simp] theorem State.setFlags_dirty {w : Nat} (s : State) (r : AluResult w) :
    (s.setFlags r).dirty = s.dirty := rfl

@[simp] theorem State.setFlags_pairHazard {w : Nat} (s : State) (r : AluResult w) :
    (s.setFlags r).pairHazard = s.pairHazard := rfl

@[simp] theorem State.setFlags_pieceHazard {w : Nat} (s : State) (r : AluResult w) :
    (s.setFlags r).pieceHazard = s.pieceHazard := rfl

@[simp] theorem State.setFlags_written {w : Nat} (s : State) (r : AluResult w) :
    (s.setFlags r).written = s.written := rfl

@[simp] theorem State.setFlags_freeCount {w : Nat} (s : State) (r : AluResult w) :
    (s.setFlags r).freeCount = s.freeCount := rfl

@[simp] theorem State.setFlags_during {w : Nat} (s : State) (r : AluResult w) :
    (s.setFlags r).during = s.during := rfl

@[simp] theorem State.setFlags_nextByte {w : Nat} (s : State) (r : AluResult w) :
    (s.setFlags r).nextByte = s.nextByte := rfl

@[simp] theorem State.setFlags_bootPort {w : Nat} (s : State) (r : AluResult w) :
    (s.setFlags r).bootPort = s.bootPort := rfl

@[simp] theorem State.setFlags_schedule {w : Nat} (s : State) (r : AluResult w) :
    (s.setFlags r).schedule = s.schedule := rfl

/-! ### State.setInPort -/

@[simp] theorem State.setInPort_regs (s : State) (p : PortIx) (q : InPort) :
    (s.setInPort p q).regs = s.regs := rfl

@[simp] theorem State.setInPort_pc (s : State) (p : PortIx) (q : InPort) :
    (s.setInPort p q).pc = s.pc := rfl

@[simp] theorem State.setInPort_sp (s : State) (p : PortIx) (q : InPort) :
    (s.setInPort p q).sp = s.sp := rfl

@[simp] theorem State.setInPort_ps (s : State) (p : PortIx) (q : InPort) :
    (s.setInPort p q).ps = s.ps := rfl

@[simp] theorem State.setInPort_fr (s : State) (p : PortIx) (q : InPort) :
    (s.setInPort p q).fr = s.fr := rfl

@[simp] theorem State.setInPort_cr (s : State) (p : PortIx) (q : InPort) :
    (s.setInPort p q).cr = s.cr := rfl

@[simp] theorem State.setInPort_pi (s : State) (p : PortIx) (q : InPort) :
    (s.setInPort p q).pi = s.pi := rfl

@[simp] theorem State.setInPort_tr (s : State) (p : PortIx) (q : InPort) :
    (s.setInPort p q).tr = s.tr := rfl

@[simp] theorem State.setInPort_oe (s : State) (p : PortIx) (q : InPort) :
    (s.setInPort p q).oe = s.oe := rfl

@[simp] theorem State.setInPort_ie (s : State) (p : PortIx) (q : InPort) :
    (s.setInPort p q).ie = s.ie := rfl

@[simp] theorem State.setInPort_pe (s : State) (p : PortIx) (q : InPort) :
    (s.setInPort p q).pe = s.pe := rfl

@[simp] theorem State.setInPort_io (s : State) (p : PortIx) (q : InPort) :
    (s.setInPort p q).io = s.io := rfl

@[simp] theorem State.setInPort_inPorts (s : State) (p : PortIx) (q : InPort) :
    (s.setInPort p q).inPorts = s.inPorts.set p q := rfl

@[simp] theorem State.setInPort_outPorts (s : State) (p : PortIx) (q : InPort) :
    (s.setInPort p q).outPorts = s.outPorts := rfl

@[simp] theorem State.setInPort_broadcast (s : State) (p : PortIx) (q : InPort) :
    (s.setInPort p q).broadcast = s.broadcast := rfl

@[simp] theorem State.setInPort_mem (s : State) (p : PortIx) (q : InPort) :
    (s.setInPort p q).mem = s.mem := rfl

@[simp] theorem State.setInPort_errorFlag (s : State) (p : PortIx) (q : InPort) :
    (s.setInPort p q).errorFlag = s.errorFlag := rfl

@[simp] theorem State.setInPort_romActive (s : State) (p : PortIx) (q : InPort) :
    (s.setInPort p q).romActive = s.romActive := rfl

@[simp] theorem State.setInPort_inhibit (s : State) (p : PortIx) (q : InPort) :
    (s.setInPort p q).inhibit = s.inhibit := rfl

@[simp] theorem State.setInPort_ueMarker (s : State) (p : PortIx) (q : InPort) :
    (s.setInPort p q).ueMarker = s.ueMarker := rfl

@[simp] theorem State.setInPort_uePending (s : State) (p : PortIx) (q : InPort) :
    (s.setInPort p q).uePending = s.uePending := rfl

@[simp] theorem State.setInPort_cePending (s : State) (p : PortIx) (q : InPort) :
    (s.setInPort p q).cePending = s.cePending := rfl

@[simp] theorem State.setInPort_waiting (s : State) (p : PortIx) (q : InPort) :
    (s.setInPort p q).waiting = s.waiting := rfl

@[simp] theorem State.setInPort_stuck (s : State) (p : PortIx) (q : InPort) :
    (s.setInPort p q).stuck = s.stuck := rfl

@[simp] theorem State.setInPort_traceDue (s : State) (p : PortIx) (q : InPort) :
    (s.setInPort p q).traceDue = s.traceDue := rfl

@[simp] theorem State.setInPort_dirty (s : State) (p : PortIx) (q : InPort) :
    (s.setInPort p q).dirty = s.dirty := rfl

@[simp] theorem State.setInPort_pairHazard (s : State) (p : PortIx) (q : InPort) :
    (s.setInPort p q).pairHazard = s.pairHazard := rfl

@[simp] theorem State.setInPort_pieceHazard (s : State) (p : PortIx) (q : InPort) :
    (s.setInPort p q).pieceHazard = s.pieceHazard := rfl

@[simp] theorem State.setInPort_written (s : State) (p : PortIx) (q : InPort) :
    (s.setInPort p q).written = s.written := rfl

@[simp] theorem State.setInPort_freeCount (s : State) (p : PortIx) (q : InPort) :
    (s.setInPort p q).freeCount = s.freeCount := rfl

@[simp] theorem State.setInPort_during (s : State) (p : PortIx) (q : InPort) :
    (s.setInPort p q).during = s.during := rfl

@[simp] theorem State.setInPort_nextByte (s : State) (p : PortIx) (q : InPort) :
    (s.setInPort p q).nextByte = s.nextByte := rfl

@[simp] theorem State.setInPort_bootPort (s : State) (p : PortIx) (q : InPort) :
    (s.setInPort p q).bootPort = s.bootPort := rfl

@[simp] theorem State.setInPort_schedule (s : State) (p : PortIx) (q : InPort) :
    (s.setInPort p q).schedule = s.schedule := rfl

/-! ### State.setOutPort -/

@[simp] theorem State.setOutPort_regs (s : State) (p : PortIx) (q : OutPort) :
    (s.setOutPort p q).regs = s.regs := rfl

@[simp] theorem State.setOutPort_pc (s : State) (p : PortIx) (q : OutPort) :
    (s.setOutPort p q).pc = s.pc := rfl

@[simp] theorem State.setOutPort_sp (s : State) (p : PortIx) (q : OutPort) :
    (s.setOutPort p q).sp = s.sp := rfl

@[simp] theorem State.setOutPort_ps (s : State) (p : PortIx) (q : OutPort) :
    (s.setOutPort p q).ps = s.ps := rfl

@[simp] theorem State.setOutPort_fr (s : State) (p : PortIx) (q : OutPort) :
    (s.setOutPort p q).fr = s.fr := rfl

@[simp] theorem State.setOutPort_cr (s : State) (p : PortIx) (q : OutPort) :
    (s.setOutPort p q).cr = s.cr := rfl

@[simp] theorem State.setOutPort_pi (s : State) (p : PortIx) (q : OutPort) :
    (s.setOutPort p q).pi = s.pi := rfl

@[simp] theorem State.setOutPort_tr (s : State) (p : PortIx) (q : OutPort) :
    (s.setOutPort p q).tr = s.tr := rfl

@[simp] theorem State.setOutPort_oe (s : State) (p : PortIx) (q : OutPort) :
    (s.setOutPort p q).oe = s.oe := rfl

@[simp] theorem State.setOutPort_ie (s : State) (p : PortIx) (q : OutPort) :
    (s.setOutPort p q).ie = s.ie := rfl

@[simp] theorem State.setOutPort_pe (s : State) (p : PortIx) (q : OutPort) :
    (s.setOutPort p q).pe = s.pe := rfl

@[simp] theorem State.setOutPort_io (s : State) (p : PortIx) (q : OutPort) :
    (s.setOutPort p q).io = s.io := rfl

@[simp] theorem State.setOutPort_inPorts (s : State) (p : PortIx) (q : OutPort) :
    (s.setOutPort p q).inPorts = s.inPorts := rfl

@[simp] theorem State.setOutPort_outPorts (s : State) (p : PortIx) (q : OutPort) :
    (s.setOutPort p q).outPorts = s.outPorts.set p q := rfl

@[simp] theorem State.setOutPort_broadcast (s : State) (p : PortIx) (q : OutPort) :
    (s.setOutPort p q).broadcast = s.broadcast := rfl

@[simp] theorem State.setOutPort_mem (s : State) (p : PortIx) (q : OutPort) :
    (s.setOutPort p q).mem = s.mem := rfl

@[simp] theorem State.setOutPort_errorFlag (s : State) (p : PortIx) (q : OutPort) :
    (s.setOutPort p q).errorFlag = s.errorFlag := rfl

@[simp] theorem State.setOutPort_romActive (s : State) (p : PortIx) (q : OutPort) :
    (s.setOutPort p q).romActive = s.romActive := rfl

@[simp] theorem State.setOutPort_inhibit (s : State) (p : PortIx) (q : OutPort) :
    (s.setOutPort p q).inhibit = s.inhibit := rfl

@[simp] theorem State.setOutPort_ueMarker (s : State) (p : PortIx) (q : OutPort) :
    (s.setOutPort p q).ueMarker = s.ueMarker := rfl

@[simp] theorem State.setOutPort_uePending (s : State) (p : PortIx) (q : OutPort) :
    (s.setOutPort p q).uePending = s.uePending := rfl

@[simp] theorem State.setOutPort_cePending (s : State) (p : PortIx) (q : OutPort) :
    (s.setOutPort p q).cePending = s.cePending := rfl

@[simp] theorem State.setOutPort_waiting (s : State) (p : PortIx) (q : OutPort) :
    (s.setOutPort p q).waiting = s.waiting := rfl

@[simp] theorem State.setOutPort_stuck (s : State) (p : PortIx) (q : OutPort) :
    (s.setOutPort p q).stuck = s.stuck := rfl

@[simp] theorem State.setOutPort_traceDue (s : State) (p : PortIx) (q : OutPort) :
    (s.setOutPort p q).traceDue = s.traceDue := rfl

@[simp] theorem State.setOutPort_dirty (s : State) (p : PortIx) (q : OutPort) :
    (s.setOutPort p q).dirty = s.dirty := rfl

@[simp] theorem State.setOutPort_pairHazard (s : State) (p : PortIx) (q : OutPort) :
    (s.setOutPort p q).pairHazard = s.pairHazard := rfl

@[simp] theorem State.setOutPort_pieceHazard (s : State) (p : PortIx) (q : OutPort) :
    (s.setOutPort p q).pieceHazard = s.pieceHazard := rfl

@[simp] theorem State.setOutPort_written (s : State) (p : PortIx) (q : OutPort) :
    (s.setOutPort p q).written = s.written := rfl

@[simp] theorem State.setOutPort_freeCount (s : State) (p : PortIx) (q : OutPort) :
    (s.setOutPort p q).freeCount = s.freeCount := rfl

@[simp] theorem State.setOutPort_during (s : State) (p : PortIx) (q : OutPort) :
    (s.setOutPort p q).during = s.during := rfl

@[simp] theorem State.setOutPort_nextByte (s : State) (p : PortIx) (q : OutPort) :
    (s.setOutPort p q).nextByte = s.nextByte := rfl

@[simp] theorem State.setOutPort_bootPort (s : State) (p : PortIx) (q : OutPort) :
    (s.setOutPort p q).bootPort = s.bootPort := rfl

@[simp] theorem State.setOutPort_schedule (s : State) (p : PortIx) (q : OutPort) :
    (s.setOutPort p q).schedule = s.schedule := rfl

/-! ### State.mapSelected -/

@[simp] theorem State.mapSelected_regs (s : State) (m : Word) (f : OutPort → OutPort) :
    (s.mapSelected m f).regs = s.regs := rfl

@[simp] theorem State.mapSelected_pc (s : State) (m : Word) (f : OutPort → OutPort) :
    (s.mapSelected m f).pc = s.pc := rfl

@[simp] theorem State.mapSelected_sp (s : State) (m : Word) (f : OutPort → OutPort) :
    (s.mapSelected m f).sp = s.sp := rfl

@[simp] theorem State.mapSelected_ps (s : State) (m : Word) (f : OutPort → OutPort) :
    (s.mapSelected m f).ps = s.ps := rfl

@[simp] theorem State.mapSelected_fr (s : State) (m : Word) (f : OutPort → OutPort) :
    (s.mapSelected m f).fr = s.fr := rfl

@[simp] theorem State.mapSelected_cr (s : State) (m : Word) (f : OutPort → OutPort) :
    (s.mapSelected m f).cr = s.cr := rfl

@[simp] theorem State.mapSelected_pi (s : State) (m : Word) (f : OutPort → OutPort) :
    (s.mapSelected m f).pi = s.pi := rfl

@[simp] theorem State.mapSelected_tr (s : State) (m : Word) (f : OutPort → OutPort) :
    (s.mapSelected m f).tr = s.tr := rfl

@[simp] theorem State.mapSelected_oe (s : State) (m : Word) (f : OutPort → OutPort) :
    (s.mapSelected m f).oe = s.oe := rfl

@[simp] theorem State.mapSelected_ie (s : State) (m : Word) (f : OutPort → OutPort) :
    (s.mapSelected m f).ie = s.ie := rfl

@[simp] theorem State.mapSelected_pe (s : State) (m : Word) (f : OutPort → OutPort) :
    (s.mapSelected m f).pe = s.pe := rfl

@[simp] theorem State.mapSelected_io (s : State) (m : Word) (f : OutPort → OutPort) :
    (s.mapSelected m f).io = s.io := rfl

@[simp] theorem State.mapSelected_inPorts (s : State) (m : Word) (f : OutPort → OutPort) :
    (s.mapSelected m f).inPorts = s.inPorts := rfl

@[simp] theorem State.mapSelected_outPorts (s : State) (m : Word) (f : OutPort → OutPort) :
    (s.mapSelected m f).outPorts = Vector.ofFn fun p : PortIx => if selects m p then f (s.outPorts.get p) else s.outPorts.get p := rfl

@[simp] theorem State.mapSelected_broadcast (s : State) (m : Word) (f : OutPort → OutPort) :
    (s.mapSelected m f).broadcast = s.broadcast := rfl

@[simp] theorem State.mapSelected_mem (s : State) (m : Word) (f : OutPort → OutPort) :
    (s.mapSelected m f).mem = s.mem := rfl

@[simp] theorem State.mapSelected_errorFlag (s : State) (m : Word) (f : OutPort → OutPort) :
    (s.mapSelected m f).errorFlag = s.errorFlag := rfl

@[simp] theorem State.mapSelected_romActive (s : State) (m : Word) (f : OutPort → OutPort) :
    (s.mapSelected m f).romActive = s.romActive := rfl

@[simp] theorem State.mapSelected_inhibit (s : State) (m : Word) (f : OutPort → OutPort) :
    (s.mapSelected m f).inhibit = s.inhibit := rfl

@[simp] theorem State.mapSelected_ueMarker (s : State) (m : Word) (f : OutPort → OutPort) :
    (s.mapSelected m f).ueMarker = s.ueMarker := rfl

@[simp] theorem State.mapSelected_uePending (s : State) (m : Word) (f : OutPort → OutPort) :
    (s.mapSelected m f).uePending = s.uePending := rfl

@[simp] theorem State.mapSelected_cePending (s : State) (m : Word) (f : OutPort → OutPort) :
    (s.mapSelected m f).cePending = s.cePending := rfl

@[simp] theorem State.mapSelected_waiting (s : State) (m : Word) (f : OutPort → OutPort) :
    (s.mapSelected m f).waiting = s.waiting := rfl

@[simp] theorem State.mapSelected_stuck (s : State) (m : Word) (f : OutPort → OutPort) :
    (s.mapSelected m f).stuck = s.stuck := rfl

@[simp] theorem State.mapSelected_traceDue (s : State) (m : Word) (f : OutPort → OutPort) :
    (s.mapSelected m f).traceDue = s.traceDue := rfl

@[simp] theorem State.mapSelected_dirty (s : State) (m : Word) (f : OutPort → OutPort) :
    (s.mapSelected m f).dirty = s.dirty := rfl

@[simp] theorem State.mapSelected_pairHazard (s : State) (m : Word) (f : OutPort → OutPort) :
    (s.mapSelected m f).pairHazard = s.pairHazard := rfl

@[simp] theorem State.mapSelected_pieceHazard (s : State) (m : Word) (f : OutPort → OutPort) :
    (s.mapSelected m f).pieceHazard = s.pieceHazard := rfl

@[simp] theorem State.mapSelected_written (s : State) (m : Word) (f : OutPort → OutPort) :
    (s.mapSelected m f).written = s.written := rfl

@[simp] theorem State.mapSelected_freeCount (s : State) (m : Word) (f : OutPort → OutPort) :
    (s.mapSelected m f).freeCount = s.freeCount := rfl

@[simp] theorem State.mapSelected_during (s : State) (m : Word) (f : OutPort → OutPort) :
    (s.mapSelected m f).during = s.during := rfl

@[simp] theorem State.mapSelected_nextByte (s : State) (m : Word) (f : OutPort → OutPort) :
    (s.mapSelected m f).nextByte = s.nextByte := rfl

@[simp] theorem State.mapSelected_bootPort (s : State) (m : Word) (f : OutPort → OutPort) :
    (s.mapSelected m f).bootPort = s.bootPort := rfl

@[simp] theorem State.mapSelected_schedule (s : State) (m : Word) (f : OutPort → OutPort) :
    (s.mapSelected m f).schedule = s.schedule := rfl

/-! ### State.showErrors -/

@[simp] theorem State.showErrors_regs (s : State) (p : PortIx) (a b : Bool) :
    (s.showErrors p a b).regs = s.regs := rfl

@[simp] theorem State.showErrors_pc (s : State) (p : PortIx) (a b : Bool) :
    (s.showErrors p a b).pc = s.pc := rfl

@[simp] theorem State.showErrors_sp (s : State) (p : PortIx) (a b : Bool) :
    (s.showErrors p a b).sp = s.sp := rfl

@[simp] theorem State.showErrors_ps (s : State) (p : PortIx) (a b : Bool) :
    (s.showErrors p a b).ps = s.ps := rfl

@[simp] theorem State.showErrors_fr (s : State) (p : PortIx) (a b : Bool) :
    (s.showErrors p a b).fr = s.fr := rfl

@[simp] theorem State.showErrors_cr (s : State) (p : PortIx) (a b : Bool) :
    (s.showErrors p a b).cr = s.cr := rfl

@[simp] theorem State.showErrors_pi (s : State) (p : PortIx) (a b : Bool) :
    (s.showErrors p a b).pi = s.pi := rfl

@[simp] theorem State.showErrors_tr (s : State) (p : PortIx) (a b : Bool) :
    (s.showErrors p a b).tr = s.tr := rfl

@[simp] theorem State.showErrors_oe (s : State) (p : PortIx) (a b : Bool) :
    (s.showErrors p a b).oe = s.oe := rfl

@[simp] theorem State.showErrors_ie (s : State) (p : PortIx) (a b : Bool) :
    (s.showErrors p a b).ie = s.ie := rfl

@[simp] theorem State.showErrors_pe (s : State) (p : PortIx) (a b : Bool) :
    (s.showErrors p a b).pe = setBit s.pe (portBit p) a := rfl

@[simp] theorem State.showErrors_io (s : State) (p : PortIx) (a b : Bool) :
    (s.showErrors p a b).io = setBit s.io (portBit p) b := rfl

@[simp] theorem State.showErrors_inPorts (s : State) (p : PortIx) (a b : Bool) :
    (s.showErrors p a b).inPorts = s.inPorts := rfl

@[simp] theorem State.showErrors_outPorts (s : State) (p : PortIx) (a b : Bool) :
    (s.showErrors p a b).outPorts = s.outPorts := rfl

@[simp] theorem State.showErrors_broadcast (s : State) (p : PortIx) (a b : Bool) :
    (s.showErrors p a b).broadcast = s.broadcast := rfl

@[simp] theorem State.showErrors_mem (s : State) (p : PortIx) (a b : Bool) :
    (s.showErrors p a b).mem = s.mem := rfl

@[simp] theorem State.showErrors_errorFlag (s : State) (p : PortIx) (a b : Bool) :
    (s.showErrors p a b).errorFlag = s.errorFlag := rfl

@[simp] theorem State.showErrors_romActive (s : State) (p : PortIx) (a b : Bool) :
    (s.showErrors p a b).romActive = s.romActive := rfl

@[simp] theorem State.showErrors_inhibit (s : State) (p : PortIx) (a b : Bool) :
    (s.showErrors p a b).inhibit = s.inhibit := rfl

@[simp] theorem State.showErrors_ueMarker (s : State) (p : PortIx) (a b : Bool) :
    (s.showErrors p a b).ueMarker = s.ueMarker := rfl

@[simp] theorem State.showErrors_uePending (s : State) (p : PortIx) (a b : Bool) :
    (s.showErrors p a b).uePending = s.uePending := rfl

@[simp] theorem State.showErrors_cePending (s : State) (p : PortIx) (a b : Bool) :
    (s.showErrors p a b).cePending = s.cePending := rfl

@[simp] theorem State.showErrors_waiting (s : State) (p : PortIx) (a b : Bool) :
    (s.showErrors p a b).waiting = s.waiting := rfl

@[simp] theorem State.showErrors_stuck (s : State) (p : PortIx) (a b : Bool) :
    (s.showErrors p a b).stuck = s.stuck := rfl

@[simp] theorem State.showErrors_traceDue (s : State) (p : PortIx) (a b : Bool) :
    (s.showErrors p a b).traceDue = s.traceDue := rfl

@[simp] theorem State.showErrors_dirty (s : State) (p : PortIx) (a b : Bool) :
    (s.showErrors p a b).dirty = s.dirty := rfl

@[simp] theorem State.showErrors_pairHazard (s : State) (p : PortIx) (a b : Bool) :
    (s.showErrors p a b).pairHazard = s.pairHazard := rfl

@[simp] theorem State.showErrors_pieceHazard (s : State) (p : PortIx) (a b : Bool) :
    (s.showErrors p a b).pieceHazard = s.pieceHazard := rfl

@[simp] theorem State.showErrors_written (s : State) (p : PortIx) (a b : Bool) :
    (s.showErrors p a b).written = s.written := rfl

@[simp] theorem State.showErrors_freeCount (s : State) (p : PortIx) (a b : Bool) :
    (s.showErrors p a b).freeCount = s.freeCount := rfl

@[simp] theorem State.showErrors_during (s : State) (p : PortIx) (a b : Bool) :
    (s.showErrors p a b).during = s.during := rfl

@[simp] theorem State.showErrors_nextByte (s : State) (p : PortIx) (a b : Bool) :
    (s.showErrors p a b).nextByte = s.nextByte := rfl

@[simp] theorem State.showErrors_bootPort (s : State) (p : PortIx) (a b : Bool) :
    (s.showErrors p a b).bootPort = s.bootPort := rfl

@[simp] theorem State.showErrors_schedule (s : State) (p : PortIx) (a b : Bool) :
    (s.showErrors p a b).schedule = s.schedule := rfl

/-! ### State.resetPorts -/

@[simp] theorem State.resetPorts_regs (s : State) : s.resetPorts.regs = s.regs := rfl

@[simp] theorem State.resetPorts_pc (s : State) : s.resetPorts.pc = s.pc := rfl

@[simp] theorem State.resetPorts_sp (s : State) : s.resetPorts.sp = s.sp := rfl

@[simp] theorem State.resetPorts_ps (s : State) : s.resetPorts.ps = s.ps := rfl

@[simp] theorem State.resetPorts_fr (s : State) : s.resetPorts.fr = s.fr := rfl

@[simp] theorem State.resetPorts_cr (s : State) : s.resetPorts.cr = s.cr := rfl

@[simp] theorem State.resetPorts_pi (s : State) : s.resetPorts.pi = s.pi := rfl

@[simp] theorem State.resetPorts_tr (s : State) : s.resetPorts.tr = s.tr := rfl

@[simp] theorem State.resetPorts_oe (s : State) : s.resetPorts.oe = 0 := rfl

@[simp] theorem State.resetPorts_ie (s : State) : s.resetPorts.ie = 0 := rfl

@[simp] theorem State.resetPorts_pe (s : State) : s.resetPorts.pe = 0 := rfl

@[simp] theorem State.resetPorts_io (s : State) : s.resetPorts.io = 0 := rfl

@[simp] theorem State.resetPorts_inPorts (s : State) :
    s.resetPorts.inPorts = Vector.replicate 11 InPort.idle := rfl

@[simp] theorem State.resetPorts_outPorts (s : State) :
    s.resetPorts.outPorts = Vector.replicate 11 OutPort.idle := rfl

@[simp] theorem State.resetPorts_broadcast (s : State) : s.resetPorts.broadcast = none := rfl

@[simp] theorem State.resetPorts_mem (s : State) : s.resetPorts.mem = s.mem := rfl

@[simp] theorem State.resetPorts_errorFlag (s : State) : s.resetPorts.errorFlag = s.errorFlag := rfl

@[simp] theorem State.resetPorts_romActive (s : State) : s.resetPorts.romActive = s.romActive := rfl

@[simp] theorem State.resetPorts_inhibit (s : State) : s.resetPorts.inhibit = s.inhibit := rfl

@[simp] theorem State.resetPorts_ueMarker (s : State) : s.resetPorts.ueMarker = s.ueMarker := rfl

@[simp] theorem State.resetPorts_uePending (s : State) : s.resetPorts.uePending = false := rfl

@[simp] theorem State.resetPorts_cePending (s : State) : s.resetPorts.cePending = false := rfl

@[simp] theorem State.resetPorts_waiting (s : State) : s.resetPorts.waiting = s.waiting := rfl

@[simp] theorem State.resetPorts_stuck (s : State) : s.resetPorts.stuck = s.stuck := rfl

@[simp] theorem State.resetPorts_traceDue (s : State) : s.resetPorts.traceDue = s.traceDue := rfl

@[simp] theorem State.resetPorts_dirty (s : State) : s.resetPorts.dirty = s.dirty := rfl

@[simp] theorem State.resetPorts_pairHazard (s : State) :
    s.resetPorts.pairHazard = s.pairHazard := rfl

@[simp] theorem State.resetPorts_pieceHazard (s : State) :
    s.resetPorts.pieceHazard = s.pieceHazard := rfl

@[simp] theorem State.resetPorts_written (s : State) : s.resetPorts.written = s.written := rfl

@[simp] theorem State.resetPorts_freeCount (s : State) : s.resetPorts.freeCount = s.freeCount := rfl

@[simp] theorem State.resetPorts_during (s : State) : s.resetPorts.during = s.during := rfl

@[simp] theorem State.resetPorts_nextByte (s : State) : s.resetPorts.nextByte = s.nextByte := rfl

@[simp] theorem State.resetPorts_bootPort (s : State) : s.resetPorts.bootPort = s.bootPort := rfl

@[simp] theorem State.resetPorts_schedule (s : State) : s.resetPorts.schedule = s.schedule := rfl

/-! ### State.prepared -/

@[simp] theorem State.prepared_regs (s : State) (c : Bool) : (s.prepared c).regs = s.regs := rfl

@[simp] theorem State.prepared_pc (s : State) (c : Bool) : (s.prepared c).pc = s.pc := rfl

@[simp] theorem State.prepared_sp (s : State) (c : Bool) : (s.prepared c).sp = s.sp := rfl

@[simp] theorem State.prepared_ps (s : State) (c : Bool) : (s.prepared c).ps = s.ps := rfl

@[simp] theorem State.prepared_fr (s : State) (c : Bool) : (s.prepared c).fr = s.fr := rfl

@[simp] theorem State.prepared_cr (s : State) (c : Bool) : (s.prepared c).cr = s.cr := rfl

@[simp] theorem State.prepared_pi (s : State) (c : Bool) : (s.prepared c).pi = s.pi := rfl

@[simp] theorem State.prepared_tr (s : State) (c : Bool) : (s.prepared c).tr = s.tr := rfl

@[simp] theorem State.prepared_oe (s : State) (c : Bool) : (s.prepared c).oe = s.oe := rfl

@[simp] theorem State.prepared_ie (s : State) (c : Bool) : (s.prepared c).ie = s.ie := rfl

@[simp] theorem State.prepared_pe (s : State) (c : Bool) : (s.prepared c).pe = s.pe := rfl

@[simp] theorem State.prepared_io (s : State) (c : Bool) : (s.prepared c).io = s.io := rfl

@[simp] theorem State.prepared_inPorts (s : State) (c : Bool) :
    (s.prepared c).inPorts = s.inPorts := rfl

@[simp] theorem State.prepared_outPorts (s : State) (c : Bool) :
    (s.prepared c).outPorts = s.outPorts := rfl

@[simp] theorem State.prepared_broadcast (s : State) (c : Bool) :
    (s.prepared c).broadcast = s.broadcast := rfl

@[simp] theorem State.prepared_mem (s : State) (c : Bool) : (s.prepared c).mem = s.mem := rfl

@[simp] theorem State.prepared_errorFlag (s : State) (c : Bool) :
    (s.prepared c).errorFlag = s.errorFlag := rfl

@[simp] theorem State.prepared_romActive (s : State) (c : Bool) :
    (s.prepared c).romActive = s.romActive := rfl

@[simp] theorem State.prepared_inhibit (s : State) (c : Bool) :
    (s.prepared c).inhibit = false := rfl

@[simp] theorem State.prepared_ueMarker (s : State) (c : Bool) :
    (s.prepared c).ueMarker = s.ueMarker := rfl

@[simp] theorem State.prepared_uePending (s : State) (c : Bool) :
    (s.prepared c).uePending = s.uePending := rfl

@[simp] theorem State.prepared_cePending (s : State) (c : Bool) :
    (s.prepared c).cePending = (s.cePending || (c && !s.romActive)) := rfl

@[simp] theorem State.prepared_waiting (s : State) (c : Bool) :
    (s.prepared c).waiting = s.waiting := rfl

@[simp] theorem State.prepared_stuck (s : State) (c : Bool) : (s.prepared c).stuck = s.stuck := rfl

@[simp] theorem State.prepared_traceDue (s : State) (c : Bool) :
    (s.prepared c).traceDue = true := rfl

@[simp] theorem State.prepared_dirty (s : State) (c : Bool) : (s.prepared c).dirty = s.dirty := rfl

@[simp] theorem State.prepared_pairHazard (s : State) (c : Bool) :
    (s.prepared c).pairHazard = s.pairHazard := rfl

@[simp] theorem State.prepared_pieceHazard (s : State) (c : Bool) :
    (s.prepared c).pieceHazard = s.pieceHazard := rfl

@[simp] theorem State.prepared_written (s : State) (c : Bool) :
    (s.prepared c).written = s.written := rfl

@[simp] theorem State.prepared_freeCount (s : State) (c : Bool) :
    (s.prepared c).freeCount = s.freeCount + 1 := rfl

@[simp] theorem State.prepared_during (s : State) (c : Bool) :
    (s.prepared c).during = s.during := rfl

@[simp] theorem State.prepared_nextByte (s : State) (c : Bool) :
    (s.prepared c).nextByte = s.nextByte := rfl

@[simp] theorem State.prepared_bootPort (s : State) (c : Bool) :
    (s.prepared c).bootPort = s.bootPort := rfl

@[simp] theorem State.prepared_schedule (s : State) (c : Bool) :
    (s.prepared c).schedule = s.schedule := rfl

/-! ### scramblePs -/

@[simp] theorem scramblePs_regs (k : Nat) (m : Word) (s : State) :
    (scramblePs k m s).regs = s.regs := rfl

@[simp] theorem scramblePs_pc (k : Nat) (m : Word) (s : State) : (scramblePs k m s).pc = s.pc := rfl

@[simp] theorem scramblePs_sp (k : Nat) (m : Word) (s : State) : (scramblePs k m s).sp = s.sp := rfl

@[simp] theorem scramblePs_ps (k : Nat) (m : Word) (s : State) :
    (scramblePs k m s).ps = (s.ps &&& ~~~m) ||| (s.free k &&& m) := rfl

@[simp] theorem scramblePs_fr (k : Nat) (m : Word) (s : State) : (scramblePs k m s).fr = s.fr := rfl

@[simp] theorem scramblePs_cr (k : Nat) (m : Word) (s : State) : (scramblePs k m s).cr = s.cr := rfl

@[simp] theorem scramblePs_pi (k : Nat) (m : Word) (s : State) : (scramblePs k m s).pi = s.pi := rfl

@[simp] theorem scramblePs_tr (k : Nat) (m : Word) (s : State) : (scramblePs k m s).tr = s.tr := rfl

@[simp] theorem scramblePs_oe (k : Nat) (m : Word) (s : State) : (scramblePs k m s).oe = s.oe := rfl

@[simp] theorem scramblePs_ie (k : Nat) (m : Word) (s : State) : (scramblePs k m s).ie = s.ie := rfl

@[simp] theorem scramblePs_pe (k : Nat) (m : Word) (s : State) : (scramblePs k m s).pe = s.pe := rfl

@[simp] theorem scramblePs_io (k : Nat) (m : Word) (s : State) : (scramblePs k m s).io = s.io := rfl

@[simp] theorem scramblePs_inPorts (k : Nat) (m : Word) (s : State) :
    (scramblePs k m s).inPorts = s.inPorts := rfl

@[simp] theorem scramblePs_outPorts (k : Nat) (m : Word) (s : State) :
    (scramblePs k m s).outPorts = s.outPorts := rfl

@[simp] theorem scramblePs_broadcast (k : Nat) (m : Word) (s : State) :
    (scramblePs k m s).broadcast = s.broadcast := rfl

@[simp] theorem scramblePs_mem (k : Nat) (m : Word) (s : State) :
    (scramblePs k m s).mem = s.mem := rfl

@[simp] theorem scramblePs_errorFlag (k : Nat) (m : Word) (s : State) :
    (scramblePs k m s).errorFlag = s.errorFlag := rfl

@[simp] theorem scramblePs_romActive (k : Nat) (m : Word) (s : State) :
    (scramblePs k m s).romActive = s.romActive := rfl

@[simp] theorem scramblePs_inhibit (k : Nat) (m : Word) (s : State) :
    (scramblePs k m s).inhibit = s.inhibit := rfl

@[simp] theorem scramblePs_ueMarker (k : Nat) (m : Word) (s : State) :
    (scramblePs k m s).ueMarker = s.ueMarker := rfl

@[simp] theorem scramblePs_uePending (k : Nat) (m : Word) (s : State) :
    (scramblePs k m s).uePending = s.uePending := rfl

@[simp] theorem scramblePs_cePending (k : Nat) (m : Word) (s : State) :
    (scramblePs k m s).cePending = s.cePending := rfl

@[simp] theorem scramblePs_waiting (k : Nat) (m : Word) (s : State) :
    (scramblePs k m s).waiting = s.waiting := rfl

@[simp] theorem scramblePs_stuck (k : Nat) (m : Word) (s : State) :
    (scramblePs k m s).stuck = s.stuck := rfl

@[simp] theorem scramblePs_traceDue (k : Nat) (m : Word) (s : State) :
    (scramblePs k m s).traceDue = s.traceDue := rfl

@[simp] theorem scramblePs_dirty (k : Nat) (m : Word) (s : State) :
    (scramblePs k m s).dirty = s.dirty := rfl

@[simp] theorem scramblePs_pairHazard (k : Nat) (m : Word) (s : State) :
    (scramblePs k m s).pairHazard = s.pairHazard := rfl

@[simp] theorem scramblePs_pieceHazard (k : Nat) (m : Word) (s : State) :
    (scramblePs k m s).pieceHazard = s.pieceHazard := rfl

@[simp] theorem scramblePs_written (k : Nat) (m : Word) (s : State) :
    (scramblePs k m s).written = s.written := rfl

@[simp] theorem scramblePs_freeCount (k : Nat) (m : Word) (s : State) :
    (scramblePs k m s).freeCount = s.freeCount := rfl

@[simp] theorem scramblePs_during (k : Nat) (m : Word) (s : State) :
    (scramblePs k m s).during = s.during := rfl

@[simp] theorem scramblePs_nextByte (k : Nat) (m : Word) (s : State) :
    (scramblePs k m s).nextByte = s.nextByte := rfl

@[simp] theorem scramblePs_bootPort (k : Nat) (m : Word) (s : State) :
    (scramblePs k m s).bootPort = s.bootPort := rfl

@[simp] theorem scramblePs_schedule (k : Nat) (m : Word) (s : State) :
    (scramblePs k m s).schedule = s.schedule := rfl

/-! ### State.noteUncorrectable -/

@[simp] theorem State.noteUncorrectable_regs (s : State) (again : Bool) :
    (s.noteUncorrectable again).regs = s.regs := rfl

@[simp] theorem State.noteUncorrectable_pc (s : State) (again : Bool) :
    (s.noteUncorrectable again).pc = s.free 0 := rfl

@[simp] theorem State.noteUncorrectable_sp (s : State) (again : Bool) :
    (s.noteUncorrectable again).sp = s.sp := rfl

@[simp] theorem State.noteUncorrectable_ps (s : State) (again : Bool) :
    (s.noteUncorrectable again).ps = s.ps := rfl

@[simp] theorem State.noteUncorrectable_fr (s : State) (again : Bool) :
    (s.noteUncorrectable again).fr = s.fr := rfl

@[simp] theorem State.noteUncorrectable_cr (s : State) (again : Bool) :
    (s.noteUncorrectable again).cr = s.cr := rfl

@[simp] theorem State.noteUncorrectable_pi (s : State) (again : Bool) :
    (s.noteUncorrectable again).pi = s.pi := rfl

@[simp] theorem State.noteUncorrectable_tr (s : State) (again : Bool) :
    (s.noteUncorrectable again).tr = s.tr := rfl

@[simp] theorem State.noteUncorrectable_oe (s : State) (again : Bool) :
    (s.noteUncorrectable again).oe = s.oe := rfl

@[simp] theorem State.noteUncorrectable_ie (s : State) (again : Bool) :
    (s.noteUncorrectable again).ie = s.ie := rfl

@[simp] theorem State.noteUncorrectable_pe (s : State) (again : Bool) :
    (s.noteUncorrectable again).pe = s.pe := rfl

@[simp] theorem State.noteUncorrectable_io (s : State) (again : Bool) :
    (s.noteUncorrectable again).io = s.io := rfl

@[simp] theorem State.noteUncorrectable_inPorts (s : State) (again : Bool) :
    (s.noteUncorrectable again).inPorts = s.inPorts := rfl

@[simp] theorem State.noteUncorrectable_outPorts (s : State) (again : Bool) :
    (s.noteUncorrectable again).outPorts = s.outPorts := rfl

@[simp] theorem State.noteUncorrectable_broadcast (s : State) (again : Bool) :
    (s.noteUncorrectable again).broadcast = s.broadcast := rfl

@[simp] theorem State.noteUncorrectable_mem (s : State) (again : Bool) :
    (s.noteUncorrectable again).mem = s.mem := rfl

@[simp] theorem State.noteUncorrectable_errorFlag (s : State) (again : Bool) :
    (s.noteUncorrectable again).errorFlag = (s.errorFlag || again) := rfl

@[simp] theorem State.noteUncorrectable_romActive (s : State) (again : Bool) :
    (s.noteUncorrectable again).romActive = s.romActive := rfl

@[simp] theorem State.noteUncorrectable_inhibit (s : State) (again : Bool) :
    (s.noteUncorrectable again).inhibit = s.inhibit := rfl

@[simp] theorem State.noteUncorrectable_ueMarker (s : State) (again : Bool) :
    (s.noteUncorrectable again).ueMarker = s.ueMarker := rfl

@[simp] theorem State.noteUncorrectable_uePending (s : State) (again : Bool) :
    (s.noteUncorrectable again).uePending = true := rfl

@[simp] theorem State.noteUncorrectable_cePending (s : State) (again : Bool) :
    (s.noteUncorrectable again).cePending = s.cePending := rfl

@[simp] theorem State.noteUncorrectable_waiting (s : State) (again : Bool) :
    (s.noteUncorrectable again).waiting = s.waiting := rfl

@[simp] theorem State.noteUncorrectable_stuck (s : State) (again : Bool) :
    (s.noteUncorrectable again).stuck = s.stuck := rfl

@[simp] theorem State.noteUncorrectable_traceDue (s : State) (again : Bool) :
    (s.noteUncorrectable again).traceDue = s.traceDue := rfl

@[simp] theorem State.noteUncorrectable_dirty (s : State) (again : Bool) :
    (s.noteUncorrectable again).dirty = s.dirty := rfl

@[simp] theorem State.noteUncorrectable_pairHazard (s : State) (again : Bool) :
    (s.noteUncorrectable again).pairHazard = s.pairHazard := rfl

@[simp] theorem State.noteUncorrectable_pieceHazard (s : State) (again : Bool) :
    (s.noteUncorrectable again).pieceHazard = s.pieceHazard := rfl

@[simp] theorem State.noteUncorrectable_written (s : State) (again : Bool) :
    (s.noteUncorrectable again).written = s.written := rfl

@[simp] theorem State.noteUncorrectable_freeCount (s : State) (again : Bool) :
    (s.noteUncorrectable again).freeCount = s.freeCount + 1 := rfl

@[simp] theorem State.noteUncorrectable_during (s : State) (again : Bool) :
    (s.noteUncorrectable again).during = s.during := rfl

@[simp] theorem State.noteUncorrectable_nextByte (s : State) (again : Bool) :
    (s.noteUncorrectable again).nextByte = s.nextByte := rfl

@[simp] theorem State.noteUncorrectable_bootPort (s : State) (again : Bool) :
    (s.noteUncorrectable again).bootPort = s.bootPort := rfl

@[simp] theorem State.noteUncorrectable_schedule (s : State) (again : Bool) :
    (s.noteUncorrectable again).schedule = s.schedule := rfl

end Sys2Proof.Machine
end

