-- ==== Sys2Proof/Laws/Ops.lean ====
section
/-! SUPPORT. For each named operation of Ops.lean, one lemma that says what it can do when it answers. -/

namespace Sys2Proof.Machine

/-! ### Sequencing -/

@[simp] theorem Res.ok_bind {α β : Type} (a : α) (s : State) (f : α → State → Res β) :
    (Res.ok a s).bind f = f a s := rfl

@[simp] theorem Res.exc_bind {α β : Type} (n : Nat) (s : State) (f : α → State → Res β) :
    (Res.exc n s : Res α).bind f = .exc n s := rfl

@[simp] theorem Res.refused_bind {α β : Type} (r : Refusal) (f : α → State → Res β) :
    (Res.refused r : Res α).bind f = .refused r := rfl

/-- A sequence answers only through an answer of its first part. -/
theorem Res.bind_eq_ok {α β : Type} {x : Res α} {f : α → State → Res β} {b : β} {t : State} :
    x.bind f = .ok b t ↔ ∃ a s, x = .ok a s ∧ f a s = .ok b t := by
  cases x <;> simp [Res.bind]

/-- Where a sequence raises an exception: in its first part or after it. -/
theorem Res.bind_eq_exc {α β : Type} {x : Res α} {f : α → State → Res β} {n : Nat} {t : State} :
    x.bind f = .exc n t ↔ x = .exc n t ∨ ∃ a s, x = .ok a s ∧ f a s = .exc n t := by
  cases x <;> simp [Res.bind]

/-- Where a sequence refuses. -/
theorem Res.bind_eq_refused {α β : Type} {x : Res α} {f : α → State → Res β} {r : Refusal} :
    x.bind f = .refused r ↔ x = .refused r ∨ ∃ a s, x = .ok a s ∧ f a s = .refused r := by
  cases x <;> simp [Res.bind]

/-! ### Registers -/

/-- What one entry of a file of k like things reads after one entry is written. -/
@[simp] theorem get_set_fin {α : Type} {k : Nat} (x : Vector α k) (n m : Fin k) (v : α)
    (h : n.val < k) : (x.set n.val v h).get m = if m = n then v else x.get m := by
  rw [Vector.get_eq_getElem, Vector.getElem_set, Vector.get_eq_getElem]
  by_cases e : m = n
  · simp [e]
  · have : n.val ≠ m.val := fun e' => e (Fin.ext e'.symm)
    simp [this, e]

/-- The contents of the registers after one is written. -/
theorem State.get_setReg (s : State) (n m : Reg) (v : Word) :
    (s.setReg n v).regs.get m = if m = n then v else s.regs.get m :=
  get_set_fin s.regs n m v n.isLt

/-- A register reads as it was last written alone. -/
@[simp] theorem State.reg_setReg_self (s : State) (n : Reg) (v : Word) : (s.setReg n v).reg n = v := by
  simp [State.reg, pairAfter]

/-- Writing a register leaves what the others read. -/
theorem State.reg_setReg_of_ne (s : State) {n m : Reg} (v : Word) (h : m ≠ n) :
    (s.setReg n v).reg m = s.reg m := by
  simp [State.reg, h, pairAfter]

/-- Writing a register leaves the contents of the others. -/
theorem State.get_setReg_of_ne (s : State) {n m : Reg} (v : Word) (h : m ≠ n) :
    (s.setReg n v).regs.get m = s.regs.get m := by
  simp [h]

theorem Reg.add_one_ne (n : Reg) : n + 1 ≠ n := by
  revert n; decide

/-- The contents of the registers after a pair is written (10 R11). -/
theorem State.get_setPair (s : State) (n m : Reg) (v : Long) :
    (s.setPair n v).regs.get m =
      if m = n + 1 then v.extractLsb' 32 32 else if m = n then v.extractLsb' 0 32
      else s.regs.get m := by
  simp

theorem long_halves (v : Long) : v.extractLsb' 32 32 ++ v.extractLsb' 0 32 = v := by
  ext i hi
  rw [BitVec.getElem_append]
  split <;> rename_i h <;> simp only [BitVec.getElem_extractLsb']
  · rw [Nat.zero_add, BitVec.getLsbD_eq_getElem hi]
  · rw [show 32 + (i - 32) = i by omega, BitVec.getLsbD_eq_getElem hi]

/-- A pair reads as it was last written (10 R11). -/
theorem State.pair_setPair_self (s : State) (n : Reg) (v : Long) : (s.setPair n v).pair n = v := by
  have h1 : (n + 1 : Reg) ≠ n := Reg.add_one_ne n
  unfold State.pair
  split
  · rename_i h
    have hl : (s.setPair n v).half n = v.extractLsb' 0 32 := by
      simp [State.half, h, h1.symm]
    have hh : (s.setPair n v).half (n + 1) = v.extractLsb' 32 32 := by
      simp [State.half, h]
    rw [hl, hh, long_halves]
  · rename_i h
    have hl : (s.setPair n v).reg n = v.extractLsb' 0 32 := by
      simp [State.reg, h, h1.symm, pairAfter]
    have hh : (s.setPair n v).reg (n + 1) = v.extractLsb' 32 32 := by
      simp [State.reg, h, pairAfter]
    rw [hl, hh, long_halves]

/-- An odd pair reads as its two registers once both have been written alone (10 R11; log 16). -/
theorem State.pair_of_halves (s : State) (n : Reg) (v w : Word) (h : n.val % 2 = 1)
    (h1 : n ∈ s.pairHazard) (h2 : n + 1 ∈ s.pairHazard) (h4 : n + 1 ∉ s.pieceHazard) :
    ((s.setReg n v).setReg (n + 1) w).pair n = w ++ v := by
  have hn : (n + 1 : Reg) ≠ n := Reg.add_one_ne n
  have hp : oddPartner n = n + 1 := if_pos h
  have hq : oddPartner (n + 1) = n := (by decide : ∀ m : Reg, m.val % 2 = 1 → oddPartner (m + 1) = m) n h
  have hl : ((s.setReg n v).setReg (n + 1) w).half n = v := by
    simp [State.half, pairAfter, pieceAfter, h1, h2, hp, hq, hn, hn.symm]
  have hh : ((s.setReg n v).setReg (n + 1) w).half (n + 1) = w := by
    simp [State.half, pairAfter, pieceAfter, h1, h2, hp, hq, hn, h4]
  rw [State.pair, if_pos h, hl, hh]

/-- A register that holds no half of a Longreal in an odd pair reads its contents. -/
theorem State.reg_of_not_mem {s : State} {n : Reg} (h : n ∉ s.pairHazard) :
    s.reg n = s.regs.get n := if_neg h

/-! ### The moves of other agents (46 R370, 20 R71) -/

/-- t has the processor's own state of s: what no move of another agent changes. -/
structure State.SameCore (s t : State) : Prop where
  regs : t.regs = s.regs
  pc : t.pc = s.pc
  sp : t.sp = s.sp
  ps : t.ps = s.ps
  fr : t.fr = s.fr
  cr : t.cr = s.cr
  pi : t.pi = s.pi
  oe : t.oe = s.oe
  ie : t.ie = s.ie
  errorFlag : t.errorFlag = s.errorFlag
  romActive : t.romActive = s.romActive
  inhibit : t.inhibit = s.inhibit
  ueMarker : t.ueMarker = s.ueMarker
  uePending : t.uePending = s.uePending
  cePending : t.cePending = s.cePending
  waiting : t.waiting = s.waiting
  stuck : t.stuck = s.stuck
  traceDue : t.traceDue = s.traceDue
  pairHazard : t.pairHazard = s.pairHazard
  pieceHazard : t.pieceHazard = s.pieceHazard
  freeCount : t.freeCount = s.freeCount
  schedule : t.schedule = s.schedule

theorem State.SameCore.refl (s : State) : State.SameCore s s := by
  constructor <;> rfl

theorem State.SameCore.trans {s t u : State} (h1 : State.SameCore s t) (h2 : State.SameCore t u) :
    State.SameCore s u := by
  constructor
  all_goals first
    | exact h2.regs.trans h1.regs | exact h2.pc.trans h1.pc | exact h2.sp.trans h1.sp
    | exact h2.ps.trans h1.ps | exact h2.fr.trans h1.fr | exact h2.cr.trans h1.cr | exact h2.pi.trans h1.pi
    | exact h2.oe.trans h1.oe | exact h2.ie.trans h1.ie | exact h2.errorFlag.trans h1.errorFlag
    | exact h2.romActive.trans h1.romActive | exact h2.inhibit.trans h1.inhibit
    | exact h2.ueMarker.trans h1.ueMarker | exact h2.uePending.trans h1.uePending
    | exact h2.cePending.trans h1.cePending | exact h2.waiting.trans h1.waiting
    | exact h2.stuck.trans h1.stuck | exact h2.traceDue.trans h1.traceDue
    | exact h2.pairHazard.trans h1.pairHazard | exact h2.pieceHazard.trans h1.pieceHazard
    | exact h2.freeCount.trans h1.freeCount | exact h2.schedule.trans h1.schedule

/-- A halfword of DMA lies inside memory (20 R78). -/
theorem dmaAddress_inside (a : Word) : dmaAddress a + 2 ≤ memoryBytes := by
  unfold dmaAddress memoryBytes
  omega

/-- What a move of another agent can do: it leaves the processor's own state, the visits to come and the canonical
form of memory, and it raises no exception. -/
theorem agentMove_eq_ok {m : Move} {s t : State} {u : Unit} (h : agentMove m s = .ok u t) :
    State.SameCore s t ∧ t.during = s.during ∧ (s.mem.wf = true → t.mem.wf = true) := by
  have store : ∀ (p : PortIx), State.SameCore s (stepStore p s) ∧ (stepStore p s).during = s.during ∧
      (s.mem.wf = true → (stepStore p s).mem.wf = true) := by
    intro p
    unfold stepStore
    dsimp only
    split
    · exact ⟨.refl s, rfl, id⟩
    · split
      · exact ⟨.refl s, rfl, id⟩
      · split <;> exact ⟨by constructor <;> rfl, rfl, fun hm => Memory.wf_write hm (dmaAddress_inside _)⟩
  cases m with
  | tick => cases h; exact ⟨by constructor <;> rfl, rfl, id⟩
  | arrive p x bad =>
    simp only [agentMove] at h
    split at h
    · cases h
    · cases h
      unfold arriveFrom stepArrive
      dsimp only
      split <;> exact ⟨by constructor <;> rfl, rfl, id⟩
  | storeLatch p => cases h; exact store p
  | send p =>
    cases h
    unfold stepSend
    dsimp only
    split <;> exact ⟨by constructor <;> rfl, rfl, id⟩
  | broadcastSend =>
    cases h
    unfold stepBroadcast
    split
    · exact ⟨.refl s, rfl, id⟩
    · split <;> exact ⟨by constructor <;> rfl, rfl, id⟩
  | linkTaken p => cases h; exact ⟨by constructor <;> rfl, rfl, id⟩
  | hostWrite a x =>
    simp only [agentMove, stepHost] at h
    split at h
    · cases h
    · split at h
      · cases h
      · cases h
        exact ⟨by constructor <;> rfl, rfl, fun hm => Memory.wf_write hm (dmaAddress_inside _)⟩

/-- No move of another agent raises an exception. -/
theorem agentMove_ne_exc {m : Move} {s t : State} {n : Nat} : agentMove m s ≠ .exc n t := by
  cases m <;> simp only [agentMove, stepHost, ne_eq] <;> repeat' split
  all_goals exact fun h => nomatch h

/-! ### Fetching instruction bytes (30 R123, 20 R71) -/

/-- What the visits of a fetch can do: only the agents' moves change the state. -/
theorem fetchVisits_eq_ok {a n : Nat} {vs : List Visit} {done : List Nat} {s t : State} {u : Unit}
    (h : fetchVisits a n vs done s = .ok u t) :
    State.SameCore s t ∧ t.during = s.during ∧ (s.mem.wf = true → t.mem.wf = true) := by
  induction vs generalizing done s with
  | nil =>
    simp only [fetchVisits] at h
    split at h <;> cases h
    exact ⟨.refl _, rfl, id⟩
  | cons v vs ih =>
    cases v with
    | move m =>
      obtain ⟨_, s1, h1, h2⟩ := Res.bind_eq_ok.1 h
      obtain ⟨a1, b1, c1⟩ := agentMove_eq_ok h1
      obtain ⟨a2, b2, c2⟩ := ih h2
      exact ⟨a1.trans a2, b2.trans b1, fun hm => c2 (c1 hm)⟩
    | byte k =>
      simp only [fetchVisits] at h
      split at h
      · split at h
        · cases h
        · exact ih h
      · exact ih h

/-- The visits of a fetch raise no exception. -/
theorem fetchVisits_ne_exc {a n k : Nat} {vs : List Visit} {done : List Nat} {s t : State} :
    fetchVisits a n vs done s ≠ .exc k t := by
  induction vs generalizing done s with
  | nil =>
    simp only [fetchVisits]
    split <;> exact nofun
  | cons v vs ih =>
    cases v with
    | move m =>
      intro h
      rcases Res.bind_eq_exc.1 h with h | ⟨_, _, _, h⟩
      · exact agentMove_ne_exc h
      · exact ih h
    | byte k =>
      simp only [fetchVisits]
      split
      · split
        · exact nofun
        · exact ih
      · exact ih

/-- A fetch during which no other agent moves changes nothing. -/
theorem fetchAccess_of_quiet (a n : Nat) {s : State} (hd : s.during = []) : fetchAccess a n s = .ok () s := by
  simp [fetchAccess, hd]

/-- What a fetch that answers can have done: only other agents have changed anything. -/
theorem fetchAccess_eq_ok {a n : Nat} {s t : State} {u : Unit} (h : fetchAccess a n s = .ok u t) :
    State.SameCore s t ∧ (s.during = [] → t = s) ∧ (s.mem.wf = true → t.mem.wf = true) := by
  unfold fetchAccess at h
  split at h
  · cases h
    exact ⟨.refl s, fun _ => rfl, id⟩
  · rename_i vs rest hd
    obtain ⟨a1, -, c1⟩ := fetchVisits_eq_ok h
    refine ⟨State.SameCore.trans ?_ a1, fun e => ?_, c1⟩
    · constructor <;> rfl
    · rw [hd] at e
      cases e

/-- A fetch raises no exception. -/
theorem fetchAccess_ne_exc {a n k : Nat} {s t : State} : fetchAccess a n s ≠ .exc k t := by
  unfold fetchAccess
  split
  · exact nofun
  · exact fetchVisits_ne_exc

/-! ### Memory accesses (20 R62, R64, R68, R71) -/

/-- What the visits of a read can do: only the agents' moves change the state. -/
theorem readVisits_eq_ok {fp : Bool} {a n : Nat} {vs : List Visit} {got g : List (Nat × Byte)} {s t : State}
    (h : readVisits fp a n vs got s = .ok g t) :
    State.SameCore s t ∧ t.during = s.during ∧ (s.mem.wf = true → t.mem.wf = true) := by
  induction vs generalizing got s with
  | nil => cases h; exact ⟨.refl _, rfl, id⟩
  | cons v vs ih =>
    cases v with
    | move m =>
      obtain ⟨_, s1, h1, h2⟩ := Res.bind_eq_ok.1 h
      obtain ⟨a1, b1, c1⟩ := agentMove_eq_ok h1
      obtain ⟨a2, b2, c2⟩ := ih h2
      exact ⟨a1.trans a2, b2.trans b1, fun hm => c2 (c1 hm)⟩
    | byte k => exact ih h

/-- The visits of a read raise no exception. -/
theorem readVisits_ne_exc {fp : Bool} {a n k : Nat} {vs : List Visit} {got : List (Nat × Byte)} {s t : State} :
    readVisits fp a n vs got s ≠ .exc k t := by
  induction vs generalizing got s with
  | nil => exact nofun
  | cons v vs ih =>
    cases v with
    | move m =>
      intro h
      rcases Res.bind_eq_exc.1 h with h | ⟨_, _, _, h⟩
      · exact agentMove_ne_exc h
      · exact ih h
    | byte k => exact ih

/-- What the visits of a write can do: the agents' moves, and bytes of the write. -/
theorem writeVisits_eq_ok {a n v : Nat} {vs : List Visit} {done d : List Nat} {s t : State}
    (h : writeVisits a n v vs done s = .ok d t) :
    State.SameCore s t ∧ t.during = s.during ∧
      (a + n ≤ memoryBytes → s.mem.wf = true → t.mem.wf = true) := by
  induction vs generalizing done s with
  | nil => cases h; exact ⟨.refl _, rfl, fun _ => id⟩
  | cons w vs ih =>
    cases w with
    | move m =>
      obtain ⟨_, s1, h1, h2⟩ := Res.bind_eq_ok.1 h
      obtain ⟨a1, b1, c1⟩ := agentMove_eq_ok h1
      obtain ⟨a2, b2, c2⟩ := ih h2
      exact ⟨a1.trans a2, b2.trans b1, fun hn hm => c2 hn (c1 hm)⟩
    | byte k =>
      simp only [writeVisits] at h
      split at h
      · rename_i hk
        simp only [Bool.and_eq_true, decide_eq_true_eq] at hk
        obtain ⟨a2, b2, c2⟩ := ih h
        refine ⟨State.SameCore.trans ?_ a2, b2, fun hn hm => c2 hn (Memory.wf_set hm (by omega))⟩
        constructor <;> rfl
      · exact ih h

/-- The visits of a write raise no exception. -/
theorem writeVisits_ne_exc {a n v k : Nat} {vs : List Visit} {done : List Nat} {s t : State} :
    writeVisits a n v vs done s ≠ .exc k t := by
  induction vs generalizing done s with
  | nil => exact nofun
  | cons w vs ih =>
    cases w with
    | move m =>
      intro h
      rcases Res.bind_eq_exc.1 h with h | ⟨_, _, _, h⟩
      · exact agentMove_ne_exc h
      · exact ih h
    | byte k =>
      simp only [writeVisits]
      split <;> exact ih

/-- MemRead where no other agent moves: it answers exactly when the bytes exist, and changes nothing. -/
theorem readMem_eq_ok {fp : Bool} {a : Word} {n : Nat} {s t : State} {v : Nat} (hd : s.during = []) :
    readMem fp a n s = .ok v t ↔ a.toNat + n ≤ memoryBytes ∧ v = s.load fp a.toNat n ∧ t = s := by
  unfold readMem
  rw [hd]
  split
  · rename_i h
    simp only [Res.ok.injEq, (inMemory_iff a n).1 h, true_and]
    exact ⟨fun e => ⟨e.1.symm, e.2.symm⟩, fun e => ⟨e.1.symm, e.2.symm⟩⟩
  · rename_i h
    simp only [reduceCtorEq, false_iff]
    exact fun e => h ((inMemory_iff a n).2 e.1)

/-- What a MemRead that answers can have done: the bytes exist, and only other agents have changed anything. -/
theorem readMem_core {fp : Bool} {a : Word} {n : Nat} {s t : State} {v : Nat} (h : readMem fp a n s = .ok v t) :
    a.toNat + n ≤ memoryBytes ∧ State.SameCore s t ∧ (s.during = [] → t = s) ∧
      (s.mem.wf = true → t.mem.wf = true) := by
  by_cases hi : inMemory a n = true
  · refine ⟨(inMemory_iff a n).1 hi, ?_⟩
    unfold readMem at h
    rw [if_pos hi] at h
    split at h
    · cases h
      exact ⟨.refl s, fun _ => rfl, id⟩
    · rename_i vs rest hd
      obtain ⟨g, u, h1, h2⟩ := Res.bind_eq_ok.1 h
      cases h2
      obtain ⟨a1, -, c1⟩ := readVisits_eq_ok h1
      refine ⟨State.SameCore.trans ?_ a1, fun e => ?_, c1⟩
      · constructor <;> rfl
      · rw [hd] at e
        cases e
  · rw [readMem, if_neg hi] at h
    cases h

/-- MemRead raises only Address Error, exactly when a byte does not exist, and changes nothing. -/
theorem readMem_eq_exc {fp : Bool} {a : Word} {n k : Nat} {s t : State} :
    readMem fp a n s = .exc k t ↔ memoryBytes < a.toNat + n ∧ k = 11 ∧ t = s := by
  unfold readMem
  split
  · rename_i h
    refine ⟨fun e => ?_, fun e => absurd ((inMemory_iff a n).1 h) (by omega)⟩
    split at e
    · cases e
    · rcases Res.bind_eq_exc.1 e with e | ⟨_, _, _, e⟩
      · exact absurd e readVisits_ne_exc
      · cases e
  · rename_i h
    have h : memoryBytes < a.toNat + n := by
      by_contra hc
      exact h ((inMemory_iff a n).2 (by omega))
    simp only [Res.exc.injEq, h, true_and]
    exact ⟨fun e => ⟨e.1.symm, e.2.symm⟩, fun e => ⟨e.1.symm, e.2.symm⟩⟩

/-- MemWrite where no other agent moves: it answers exactly when the bytes exist, and does the store. -/
theorem writeMem_eq_ok {fp : Bool} {a : Word} {n v : Nat} {s t : State} {u : Unit} (hd : s.during = []) :
    writeMem fp a n v s = .ok u t ↔
      a.toNat + n ≤ memoryBytes ∧ t = s.store (if fp then .float else .other) a.toNat n v := by
  unfold writeMem
  rw [hd]
  dsimp only
  split
  · rename_i h
    simp only [Res.ok.injEq, (inMemory_iff a n).1 h, true_and]
    exact ⟨fun e => e.symm, fun e => e.symm⟩
  · rename_i h
    simp only [reduceCtorEq, false_iff]
    exact fun e => h ((inMemory_iff a n).2 e.1)

/-- What a MemWrite that answers can have done: the bytes exist, and besides memory and its records only other agents
have changed anything. -/
theorem writeMem_core {fp : Bool} {a : Word} {n v : Nat} {s t : State} {u : Unit}
    (h : writeMem fp a n v s = .ok u t) :
    a.toNat + n ≤ memoryBytes ∧ State.SameCore s t ∧
      (s.during = [] → t = s.store (if fp then .float else .other) a.toNat n v) ∧
      (s.mem.wf = true → t.mem.wf = true) := by
  by_cases hi : inMemory a n = true
  · have hb := (inMemory_iff a n).1 hi
    refine ⟨hb, ?_⟩
    simp only [writeMem, hi, if_true] at h
    split at h
    · cases h
      exact ⟨by constructor <;> rfl, fun _ => rfl, fun hm => Memory.wf_write hm hb⟩
    · rename_i vs rest hd
      obtain ⟨g, w, h1, h2⟩ := Res.bind_eq_ok.1 h
      cases h2
      obtain ⟨a1, -, c1⟩ := writeVisits_eq_ok h1
      refine ⟨State.SameCore.trans (t := { s with during := visitsAfter rest }) ?_ (a1.trans ?_), fun e => ?_,
        fun hm => Memory.wf_writeRest (c1 hb hm) hb⟩
      · constructor <;> rfl
      · constructor <;> rfl
      · rw [hd] at e
        cases e
  · simp only [writeMem, if_neg hi] at h
    cases h

/-- MemWrite raises only Address Error, exactly when a byte does not exist, and changes nothing. -/
theorem writeMem_eq_exc {fp : Bool} {a : Word} {n v k : Nat} {s t : State} :
    writeMem fp a n v s = .exc k t ↔ memoryBytes < a.toNat + n ∧ k = 11 ∧ t = s := by
  unfold writeMem
  dsimp only
  split
  · rename_i h
    refine ⟨fun e => ?_, fun e => absurd ((inMemory_iff a n).1 h) (by omega)⟩
    split at e
    · cases e
    · rcases Res.bind_eq_exc.1 e with e | ⟨_, _, _, e⟩
      · exact absurd e writeVisits_ne_exc
      · cases e
  · rename_i h
    have h : memoryBytes < a.toNat + n := by
      by_contra hc
      exact h ((inMemory_iff a n).2 (by omega))
    simp only [Res.exc.injEq, h, true_and]
    exact ⟨fun e => ⟨e.1.symm, e.2.symm⟩, fun e => ⟨e.1.symm, e.2.symm⟩⟩

/-- A read no byte of which is stale gives the bytes of memory. -/
theorem State.load_of_not_stale {s : State} {fp : Bool} {a n : Nat}
    (h : ∀ x, s.stale fp a n x = false) : s.load fp a n = s.mem.read a n := by
  have : ∀ k x, s.bytesSeen fp a n [] x k = s.mem.read x k := by
    intro k
    induction k with
    | zero => intro x; rfl
    | succ k ih => intro x; simp [State.bytesSeen, State.byteSeen, Memory.read, h, ih]
  exact this n a

/-- Where memory holds no misaligned Real or Longreal, a read of an integer gives the bytes of memory
(70 R481). -/
theorem State.load_of_plain {s : State} (h : s.Plain) (a n : Nat) :
    s.load false a n = s.mem.read a n := by
  refine State.load_of_not_stale fun x => ?_
  unfold State.stale
  split
  · rename_i r hr
    simp [Stored.readInPieces, h r (List.mem_of_find?_eq_some hr)]
  · rfl

/-- A store other than of a floating-point result leaves no misaligned Real or Longreal. -/
theorem State.Plain.store {s : State} (h : s.Plain) {k : Storer} (hk : k ≠ .float) (a n v : Nat) :
    (s.store k a n v).Plain := by
  intro r hr
  simp only [State.store_written, storesAfter] at hr
  split at hr
  · exact h r (List.mem_of_mem_filter hr)
  · rcases List.mem_cons.1 hr with rfl | hr
    · cases k <;> simp [Stored.misaligned] at hk ⊢
    · exact h r (List.mem_of_mem_filter hr)

/-- What a push that answers has done where no other agent moves (10 R21). -/
theorem push_eq_ok {v : Word} {s t : State} {u : Unit} (hd : s.during = []) :
    push v s = .ok u t ↔ (s.sp - 4).toNat + 4 ≤ memoryBytes ∧
      t = ({ s with sp := s.sp - 4 } : State).store .other (s.sp - 4).toNat 4 v.toNat := by
  unfold push
  exact writeMem_eq_ok hd

/-- What a pop that answers has done (10 R21). -/
theorem pop_eq_ok {s t : State} {v : Word} :
    pop s = .ok v t ↔ ∃ w s1, readMem false s.sp 4 s = .ok w s1 ∧ v = BitVec.ofNat 32 w ∧
      t = { s1 with sp := s1.sp + 4 } := by
  unfold pop
  rw [Res.bind_eq_ok]
  constructor
  · rintro ⟨w, s1, h, e⟩
    simp only [Res.ok.injEq] at e
    exact ⟨w, s1, h, e.1.symm, e.2.symm⟩
  · rintro ⟨w, s1, h, rfl, rfl⟩
    exact ⟨w, s1, h, rfl⟩

/-! ### PS -/

/-- What loading an NPS or an LDPR value has done when it answers (10 R20, 93 U4, U18). -/
theorem loadPs_eq_ok {v : Word} {s t : State} {u : Unit} :
    loadPs v s = .ok u t ↔ Ps.legal v = true ∧ Ps.rep v = 0 ∧ t = { s with ps := v } := by
  unfold loadPs
  split
  · rename_i h
    simp_all
  · rename_i h
    split
    · rename_i h'
      simp_all
    · rename_i h'
      simp only [Res.ok.injEq, true_and]
      have hl : Ps.legal v = true := by simpa using h
      have hr : Ps.rep v = 0 := by simpa using h'
      exact ⟨fun e => ⟨hl, hr, e.symm⟩, fun e => e.2.2.symm⟩

/-- Loading PS raises no exception. -/
theorem loadPs_ne_exc {v : Word} {s t : State} {n : Nat} : loadPs v s ≠ .exc n t := by
  unfold loadPs
  split
  · simp
  · split <;> simp

/-- What restoring a popped PS has done when it answers (93 U4, U18). -/
theorem restorePs_eq_ok {v : Word} {s t : State} {u : Unit} :
    restorePs v s = .ok u t ↔ Ps.legal v = true ∧ t = { s with ps := v } := by
  unfold restorePs
  split
  · rename_i h
    simp_all
  · rename_i h
    simp only [Res.ok.injEq, true_and]
    have hl : Ps.legal v = true := by simpa using h
    exact ⟨fun e => ⟨hl, e.symm⟩, fun e => e.2.symm⟩

/-! ### Exceptions (60 R404 to R407, R416) -/

/-- What an entry that meets no fault has done (60 R404): two pushes, then PC and PS from the vector. -/
theorem entrySequence_eq_ok {n : Nat} {q : Word} {s t : State} {u : Unit} :
    entrySequence n q s = .ok u t ↔ ∃ s1 s2 s3 s4 va nps, push s.ps s = .ok () s1 ∧ push q s1 = .ok () s2 ∧
      readMem false (BitVec.ofNat 32 (8 * n)) 4 s2 = .ok va s3 ∧
      readMem false (BitVec.ofNat 32 (8 * n + 4)) 4 s3 = .ok nps s4 ∧
      Ps.legal (BitVec.ofNat 32 nps) = true ∧ Ps.rep (BitVec.ofNat 32 nps) = 0 ∧
      t = { s4 with
        ps := BitVec.ofNat 32 nps
        pc := BitVec.ofNat 32 va
        dirty := []
        waiting := false } := by
  unfold entrySequence
  constructor
  · intro h
    obtain ⟨_, s1, h1, h⟩ := Res.bind_eq_ok.1 h
    obtain ⟨_, s2, h2, h⟩ := Res.bind_eq_ok.1 h
    obtain ⟨va, s3, h3, h⟩ := Res.bind_eq_ok.1 h
    obtain ⟨nps, s4, h4, h⟩ := Res.bind_eq_ok.1 h
    obtain ⟨_, s5, h5, h⟩ := Res.bind_eq_ok.1 h
    obtain ⟨hl, hr, rfl⟩ := loadPs_eq_ok.1 h5
    simp only [Res.ok.injEq, true_and] at h
    exact ⟨s1, s2, s3, s4, va, nps, h1, h2, h3, h4, hl, hr, h.symm⟩
  · rintro ⟨s1, s2, s3, s4, va, nps, h1, h2, h3, h4, hl, hr, rfl⟩
    rw [h1, Res.ok_bind, h2, Res.ok_bind, h3, Res.ok_bind, h4, Res.ok_bind,
      loadPs_eq_ok (u := ()).2 ⟨hl, hr, rfl⟩]
    rfl

/-- What entering one interrupt answers with a next state: the entry, or the stuck state
(60 R404, R407). -/
theorem enterOnly_eq_next {n : Nat} {q : Word} {s t : State} :
    enterOnly n q s = .next t ↔ s.romActive = false ∧
      (entrySequence n q s = .ok () t ∨
        ∃ k s1, entrySequence n q s = .exc k s1 ∧
          t = { s1 with errorFlag := true, stuck := true }) := by
  unfold enterOnly
  cases s.romActive
  · simp only [Bool.false_eq_true, if_false, true_and]
    cases entrySequence n q s with
    | ok u s1 => simp
    | exc k s1 =>
      simp only [Host.Outcome.next.injEq, reduceCtorEq, Res.exc.injEq, false_or]
      exact ⟨fun e => ⟨k, s1, ⟨rfl, rfl⟩, e.symm⟩, fun ⟨_, _, ⟨_, e⟩, h⟩ => by rw [h, e]⟩
    | refused r => simp
  · simp

/-- Nothing happens after a change of SP that does not take it below 2048 (60 R416). -/
theorem checkStack_of_not_crossed {b q : Word} {s : State} (h : crossed b s.sp = false) :
    checkStack b q s = .next s := by
  simp [checkStack, h]

/-- SP becoming less than 2048 enters Stack Overflow (60 R416). -/
theorem checkStack_of_crossed {b q : Word} {s : State} (h : crossed b s.sp = true)
    (hs : s.stuck = false) : checkStack b q s = enterOnly 12 q s := by
  simp [checkStack, h, hs]

/-- How an instruction that raises nothing and leaves SP above the limit ends (60 R402). -/
theorem finish_ok {s0 s : State} {u : Unit} (h : crossed s0.sp s.sp = false) :
    finish s0 (.ok u s) = .next s :=
  checkStack_of_not_crossed h

/-- How an instruction that raises an exception with SP above the limit ends (60 R402, R405). -/
theorem finish_exc {s0 s : State} {n : Nat} (h : crossed s0.sp s.sp = false) :
    finish s0 (.exc n s) = enter n s0.pc s := by
  simp only [finish, h]
  cases enter n s0.pc s <;> rfl

/-- An instruction that refuses ends so. -/
@[simp] theorem finish_refused (s0 : State) (r : Refusal) : finish s0 (.refused r) = .refused r := rfl

/-- What a return from interrupt has done when it answers (45 R335). -/
theorem popReturn_eq_ok {s t : State} {u : Unit} :
    popReturn s = .ok u t ↔ ∃ q p s1 s2, pop s = .ok q s1 ∧ pop s1 = .ok p s2 ∧
      Ps.legal p = true ∧ t = { s2 with ps := p, pc := q, dirty := [] } := by
  unfold popReturn
  constructor
  · intro h
    obtain ⟨q, s1, h1, h⟩ := Res.bind_eq_ok.1 h
    obtain ⟨p, s2, h2, h⟩ := Res.bind_eq_ok.1 h
    obtain ⟨_, s3, h3, h⟩ := Res.bind_eq_ok.1 h
    obtain ⟨hl, rfl⟩ := restorePs_eq_ok.1 h3
    simp only [Res.ok.injEq, true_and] at h
    exact ⟨q, p, s1, s2, h1, h2, hl, h.symm⟩
  · rintro ⟨q, p, s1, s2, h1, h2, hl, rfl⟩
    rw [h1, Res.ok_bind, h2, Res.ok_bind, restorePs_eq_ok (u := ()).2 ⟨hl, rfl⟩]
    rfl

end Sys2Proof.Machine
end

