-- ==== Sys2Proof/Laws/Operands.lean ====
section
/-! SUPPORT. What the operations over operands can do: one lemma per operation says everything it may
change, and the small lemmas of the Program Status bits. -/

namespace Sys2Proof.Machine

/-! ### What evaluating and writing operands may touch -/

/-- t is s but for the registers of a list, the bytes of memory that `bytes` names, SP if `stk` says so, the model's
records of stores, and what other agents may change: what evaluating, reading and writing operands may change. -/
structure State.Touches (regs : List Reg) (bytes : Nat → Bool) (stk : Bool) (s t : State) : Prop extends
    State.SameBut regs bytes 0 stk s t where
  ps : t.ps = s.ps
  pc : t.pc = s.pc
  fr : t.fr = s.fr

theorem State.SameAgents.refl (bytes : Nat → Bool) {s : State} (h : s.during = []) :
    State.SameAgents bytes s s :=
  ⟨fun _ _ => rfl, rfl, rfl, rfl, rfl, rfl, rfl, rfl, h⟩

theorem State.SameAgents.trans {b1 b2 : Nat → Bool} {s t u : State} (h1 : State.SameAgents b1 s t)
    (h2 : State.SameAgents b2 t u) : State.SameAgents (fun x => b1 x || b2 x) s u := by
  refine ⟨fun x hx => ?_, h2.tr.trans h1.tr, h2.pe.trans h1.pe, h2.io.trans h1.io,
    h2.inPorts.trans h1.inPorts, h2.outPorts.trans h1.outPorts, h2.broadcast.trans h1.broadcast,
    h2.bootPort.trans h1.bootPort, h2.during⟩
  simp only [Bool.or_eq_false_iff] at hx
  rw [h2.memory x hx.2, h1.memory x hx.1]

/-- What only other agents have changed. -/
theorem State.SameCore.touches {s t : State} (h : State.SameCore s t) (hd : s.during = [] → t = s)
    (regs : List Reg) (bytes : Nat → Bool) (stk : Bool) : State.Touches regs bytes stk s t where
  registers _ _ := by rw [h.regs]
  sp _ := h.sp
  status := by rw [h.ps]
  agents e := by rw [hd e]; exact .refl bytes e
  cr := h.cr
  pi := h.pi
  oe := h.oe
  ie := h.ie
  errorFlag := h.errorFlag
  romActive := h.romActive
  inhibit := h.inhibit
  ueMarker := h.ueMarker
  uePending := h.uePending
  cePending := h.cePending
  waiting := h.waiting
  stuck := h.stuck
  traceDue := h.traceDue
  freeCount := h.freeCount
  schedule := h.schedule
  ps := h.ps
  pc := h.pc
  fr := h.fr

theorem State.Touches.refl (regs : List Reg) (bytes : Nat → Bool) (stk : Bool) (s : State) :
    State.Touches regs bytes stk s s :=
  (State.SameCore.refl s).touches (fun _ => rfl) regs bytes stk

/-- What two parts may touch one after the other. -/
theorem State.Touches.trans {r1 r2 : List Reg} {b1 b2 : Nat → Bool} {k1 k2 : Bool} {s t u : State}
    (h1 : State.Touches r1 b1 k1 s t) (h2 : State.Touches r2 b2 k2 t u) :
    State.Touches (r1 ++ r2) (fun x => b1 x || b2 x) (k1 || k2) s u where
  registers n hn := by
    simp only [List.mem_append, not_or] at hn
    rw [h2.registers n hn.2, h1.registers n hn.1]
  sp hk := by
    simp only [Bool.or_eq_false_iff] at hk
    rw [h2.sp hk.2, h1.sp hk.1]
  status := h2.status.trans h1.status
  agents e := (h1.agents e).trans (h2.agents (h1.agents e).during)
  cr := h2.cr.trans h1.cr
  pi := h2.pi.trans h1.pi
  oe := h2.oe.trans h1.oe
  ie := h2.ie.trans h1.ie
  errorFlag := h2.errorFlag.trans h1.errorFlag
  romActive := h2.romActive.trans h1.romActive
  inhibit := h2.inhibit.trans h1.inhibit
  ueMarker := h2.ueMarker.trans h1.ueMarker
  uePending := h2.uePending.trans h1.uePending
  cePending := h2.cePending.trans h1.cePending
  waiting := h2.waiting.trans h1.waiting
  stuck := h2.stuck.trans h1.stuck
  traceDue := h2.traceDue.trans h1.traceDue
  freeCount := h2.freeCount.trans h1.freeCount
  schedule := h2.schedule.trans h1.schedule
  ps := h2.ps.trans h1.ps
  pc := h2.pc.trans h1.pc
  fr := h2.fr.trans h1.fr

theorem State.Touches.mono {r1 r2 : List Reg} {b1 b2 : Nat → Bool} {k1 k2 : Bool} {s t : State}
    (h : State.Touches r1 b1 k1 s t) (hr : ∀ n ∈ r1, n ∈ r2)
    (hb : ∀ x, b2 x = false → b1 x = false) (hk : k2 = false → k1 = false) :
    State.Touches r2 b2 k2 s t where
  registers n hn := h.registers n fun hm => hn (hr n hm)
  sp e := h.sp (hk e)
  status := h.status
  agents e :=
    have g := h.agents e
    ⟨fun x hx => g.memory x (hb x hx), g.tr, g.pe, g.io, g.inPorts, g.outPorts, g.broadcast, g.bootPort, g.during⟩
  cr := h.cr
  pi := h.pi
  oe := h.oe
  ie := h.ie
  errorFlag := h.errorFlag
  romActive := h.romActive
  inhibit := h.inhibit
  ueMarker := h.ueMarker
  uePending := h.uePending
  cePending := h.cePending
  waiting := h.waiting
  stuck := h.stuck
  traceDue := h.traceDue
  freeCount := h.freeCount
  schedule := h.schedule
  ps := h.ps
  pc := h.pc
  fr := h.fr

/-- Writing one register. -/
theorem State.touches_setReg (s : State) (n : Reg) (v : Word) :
    State.Touches [n] (fun _ => false) false s (s.setReg n v) := by
  constructor
  case toSameBut =>
    constructor
    case registers =>
      intro m hm
      simp only [List.mem_singleton] at hm
      simp [hm]
    case agents => exact fun e => ⟨fun _ _ => rfl, rfl, rfl, rfl, rfl, rfl, rfl, rfl, e⟩
    all_goals first | rfl | exact fun _ => rfl
  all_goals rfl

/-- Writing a pair of registers. -/
theorem State.touches_setPair (s : State) (n : Reg) (v : Long) :
    State.Touches [n, n + 1] (fun _ => false) false s (s.setPair n v) := by
  constructor
  case toSameBut =>
    constructor
    case registers =>
      intro m hm
      simp only [List.mem_cons, List.not_mem_nil, or_false, not_or] at hm
      simp [hm.1, hm.2]
    case agents => exact fun e => ⟨fun _ _ => rfl, rfl, rfl, rfl, rfl, rfl, rfl, rfl, e⟩
    all_goals first | rfl | exact fun _ => rfl
  all_goals rfl

/-- MemWrite touches the bytes it stores to. -/
theorem writeMem_touches {fp : Bool} {a : Word} {n v : Nat} {s t : State} {u : Unit}
    (h : writeMem fp a n v s = .ok u t) :
    State.Touches [] (fun x => decide (a.toNat ≤ x) && decide (x < a.toNat + n)) false s t := by
  obtain ⟨-, hc, hq, -⟩ := writeMem_core h
  constructor
  case toSameBut =>
    constructor
    case registers => exact fun _ _ => by rw [hc.regs]
    case sp => exact fun _ => hc.sp
    case status => rw [hc.ps]
    case agents =>
      intro e
      rw [hq e]
      refine ⟨fun x hx => ?_, rfl, rfl, rfl, rfl, rfl, rfl, rfl, e⟩
      simp only [Bool.and_eq_false_iff, decide_eq_false_iff_not] at hx
      exact Memory.get_write_of_not_mem _ _ _ _ _ (by omega)
    all_goals first | exact hc.cr | exact hc.pi | exact hc.oe | exact hc.ie | exact hc.errorFlag | exact hc.romActive | exact hc.inhibit | exact hc.ueMarker | exact hc.uePending | exact hc.cePending | exact hc.waiting | exact hc.stuck | exact hc.traceDue | exact hc.freeCount | exact hc.schedule
  case ps => exact hc.ps
  case pc => exact hc.pc
  case fr => exact hc.fr

/-- Moving SP. -/
theorem State.touches_sp (s : State) (v : Word) :
    State.Touches [] (fun _ => false) true s { s with sp := v } := by
  constructor
  case toSameBut =>
    constructor
    case sp => exact nofun
    case agents => exact fun e => ⟨fun _ _ => rfl, rfl, rfl, rfl, rfl, rfl, rfl, rfl, e⟩
    all_goals first | rfl | exact fun _ _ => rfl
  all_goals rfl

/-- Reading memory changes nothing but what other agents change. -/
theorem readMem_touches {fp : Bool} {a : Word} {n : Nat} {s t : State} {v : Nat} (h : readMem fp a n s = .ok v t)
    (regs : List Reg) (bytes : Nat → Bool) (stk : Bool) : State.Touches regs bytes stk s t :=
  (readMem_core h).2.1.touches (readMem_core h).2.2.1 regs bytes stk

/-- What fetching a field that answers can have done: only other agents have changed anything (30 R123). -/
theorem fetchField_eq_ok {t : OpType} {k : Access} {m : Mode t} {s s1 : State} {u : Unit}
    (h : fetchField k m s = .ok u s1) :
    State.SameCore s s1 ∧ (s.during = [] → s1 = s) ∧ (s.mem.wf = true → s1.mem.wf = true) := by
  unfold fetchField at h
  split at h
  · cases h
    exact ⟨.refl s, fun _ => rfl, id⟩
  · exact fetchAccess_eq_ok h
  · obtain ⟨_, s2, h1, h2⟩ := Res.bind_eq_ok.1 h
    obtain ⟨a1, b1, c1⟩ := fetchAccess_eq_ok h1
    obtain ⟨a2, b2, c2⟩ := fetchAccess_eq_ok h2
    refine ⟨a1.trans a2, fun e => ?_, fun hm => c2 (c1 hm)⟩
    have e1 := b1 e
    subst e1
    exact b2 e

/-- Fetching a field raises no exception. -/
theorem fetchField_ne_exc {t : OpType} {k : Access} {m : Mode t} {n : Nat} {s s1 : State} :
    fetchField k m s ≠ .exc n s1 := by
  unfold fetchField
  split
  · exact nofun
  · exact fetchAccess_ne_exc
  · intro h
    rcases Res.bind_eq_exc.1 h with h | ⟨_, _, _, h⟩
    · exact fetchAccess_ne_exc h
    · exact fetchAccess_ne_exc h

/-- Fetching a field while no other agent moves changes nothing. -/
theorem fetchField_of_quiet {t : OpType} (k : Access) (m : Mode t) {s : State} (hd : s.during = []) :
    fetchField k m s = .ok () s := by
  unfold fetchField
  split
  · rfl
  · exact fetchAccess_of_quiet _ _ hd
  · rw [fetchAccess_of_quiet _ _ hd]
    exact fetchAccess_of_quiet _ _ hd

/-- What the fetches of a skipped instruction that answer can have done: only other agents have changed anything. -/
theorem fetchFields_eq_ok {fs : List Field} {s t : State} {u : Unit} (h : fetchFields fs s = .ok u t) :
    State.SameCore s t ∧ (s.during = [] → t = s) ∧ (s.mem.wf = true → t.mem.wf = true) := by
  induction fs generalizing s with
  | nil => cases h; exact ⟨.refl _, fun _ => rfl, id⟩
  | cons f fs ih =>
    obtain ⟨_, s1, h1, h2⟩ := Res.bind_eq_ok.1 h
    obtain ⟨a1, b1, c1⟩ := fetchField_eq_ok h1
    split at h2
    · cases h2; exact ⟨a1, b1, c1⟩
    · obtain ⟨a2, b2, c2⟩ := ih h2
      refine ⟨a1.trans a2, fun e => ?_, fun hm => c2 (c1 hm)⟩
      have e1 := b1 e
      subst e1
      exact b2 e

/-- The fetches of a skipped instruction change nothing while no other agent moves. -/
theorem fetchFields_of_quiet (fs : List Field) {s : State} (hd : s.during = []) :
    fetchFields fs s = .ok () s := by
  induction fs with
  | nil => rfl
  | cons f fs ih =>
    simp only [fetchFields, fetchField_of_quiet _ _ hd, Res.ok_bind]
    split
    · rfl
    · exact ih

/-- Whether evaluating a field for writing pushes (30 R113 S3). -/
theorem locate_touches {t : OpType} {k : Access} {sp0 : Word} {m : Mode t} {s s1 : State} {p : Place}
    (h : locate k sp0 m s = .ok p s1) :
    State.Touches (modeRegisters m) (fun _ => false) (isStk m) s s1 := by
  unfold locate at h
  split at h
  · cases h
  rename_i hk
  clear hk
  cases m <;> simp only [Res.bind_eq_ok, Res.ok.injEq] at h
  case autodec r =>
    obtain ⟨-, rfl⟩ := h
    exact State.touches_setReg s r _
  case stk =>
    split at h <;> simp only [Res.ok.injEq] at h <;> obtain ⟨-, rfl⟩ := h
    · exact State.touches_sp s _
    · exact State.Touches.refl _ _ _ _
  case reserved => cases h
  case truncated => cases h
  all_goals
    first
    | (obtain ⟨-, rfl⟩ := h; exact State.Touches.refl _ _ _ _)
    | (obtain ⟨_, _, h1, -, rfl⟩ := h; exact readMem_touches h1 _ _ _)

/-- Fetching a field and finding its operand touches only its mode's register, and SP if it is STK. -/
theorem locateField_touches {t : OpType} {k : Access} {sp0 : Word} {m : Mode t} {s s1 : State} {p : Place}
    (h : locateField k sp0 m s = .ok p s1) :
    State.Touches (modeRegisters m) (fun _ => false) (isStk m) s s1 := by
  obtain ⟨_, s2, h1, h2⟩ := Res.bind_eq_ok.1 h
  obtain ⟨a1, b1, -⟩ := fetchField_eq_ok h1
  exact ((a1.touches b1 [] (fun _ => false) false).trans (locate_touches h2)).mono (by simp) (by simp) (by simp)

/-- Where no other agent moves a field's operand is found as `locate` says. -/
theorem locateField_of_quiet {t : OpType} (k : Access) (sp0 : Word) (m : Mode t) {s : State}
    (hd : s.during = []) : locateField k sp0 m s = locate k sp0 m s := by
  unfold locateField
  rw [fetchField_of_quiet k m hd]
  rfl

/-- Reading the value at a place changes nothing but what other agents change. -/
theorem readPlace_touches {t : OpType} {p : Place} {s s1 : State} {v : BitVec t.bits}
    (h : readPlace t p s = .ok v s1) (regs : List Reg) (bytes : Nat → Bool) (stk : Bool) :
    State.Touches regs bytes stk s s1 := by
  cases p <;> simp only [readPlace, Res.bind_eq_ok, Res.ok.injEq] at h
  · rw [← h.2]; exact .refl _ _ _ _
  · rw [← h.2]; exact .refl _ _ _ _
  · obtain ⟨_, _, h1, -, rfl⟩ := h
    exact readMem_touches h1 _ _ _

/-- The register that a mode steps. -/
theorem stepRegister_touches {t : OpType} (m : Mode t) (s : State) :
    State.Touches (modeRegisters m) (fun _ => false) false s (stepRegister m s) := by
  cases m <;> simp only [stepRegister]
  case autoinc r => exact State.touches_setReg s r _
  case autoskip r => exact State.touches_setReg s r _
  case autoincInd r => exact State.touches_setReg s r _
  all_goals exact State.Touches.refl _ _ _ _

/-- The pop of an STK operand. -/
theorem popOperand_touches {t : OpType} (m : Mode t) (s : State) :
    State.Touches [] (fun _ => false) (isStk m) s (popOperand m s) := by
  cases m <;> simp only [popOperand, isStk]
  case stk => exact State.touches_sp s _
  all_goals exact State.Touches.refl _ _ _ _

/-- Reading a field touches only its mode's register, and SP if it is STK (30 R99 to R113). -/
theorem readField_touches {t : OpType} {sp0 : Word} {m : Mode t} {s s1 : State} {v : BitVec t.bits}
    (h : readField sp0 m s = .ok v s1) :
    State.Touches (modeRegisters m) (fun _ => false) (isStk m) s s1 := by
  simp only [readField, Res.bind_eq_ok, Res.ok.injEq] at h
  obtain ⟨p, s2, h1, w, s3, h2, -, rfl⟩ := h
  exact (((locateField_touches h1).trans (readPlace_touches h2 [] (fun _ => false) false)).trans
    ((stepRegister_touches m s3).trans (popOperand_touches m _))).mono (by simp) (by simp) (by simp)

/-- Reading the second field of CMP or BIT touches only its mode's register, and SP if it is STK. -/
theorem readSecond_touches {t u : OpType} {sp0 : Word} {src : Mode t} {m : Mode u} {s s1 : State}
    {v : BitVec u.bits} (h : readSecond sp0 src m s = .ok v s1) :
    State.Touches (modeRegisters m) (fun _ => false) (isStk m) s s1 := by
  simp only [readSecond, Res.bind_eq_ok, Res.ok.injEq] at h
  obtain ⟨p, s2, h1, w, s3, h2, -, rfl⟩ := h
  have h12 := (locateField_touches h1).trans (readPlace_touches h2 [] (fun _ => false) false)
  split
  · exact (h12.trans ((stepRegister_touches m s3).trans (popOperand_touches m _))).mono
      (by simp) (by simp) (by simp)
  · exact (h12.trans (stepRegister_touches m s3)).mono (by simp) (by simp) (by simp)

/-- Opening a field that is read and written touches only its mode's register, and SP if it is STK. -/
theorem openModified_touches {t : OpType} {sp0 : Word} {m : Mode t} {s s1 : State}
    {bp : BitVec t.bits × Place} (h : openModified sp0 m s = .ok bp s1) :
    State.Touches (modeRegisters m) (fun _ => false) (isStk m) s s1 := by
  simp only [openModified, Res.bind_eq_ok, Res.ok.injEq] at h
  obtain ⟨p, s2, h1, w, s3, h2, -, rfl⟩ := h
  exact (((locateField_touches h1).trans (readPlace_touches h2 [] (fun _ => false) false)).trans
    (stepRegister_touches m s3)).mono (by simp) (by simp) (by simp)

/-- Opening a field that is only written touches only its mode's register, and SP if it is STK. -/
theorem openWritten_touches {t : OpType} {sp0 : Word} {m : Mode t} {s s1 : State} {p : Place}
    (h : openWritten sp0 m s = .ok p s1) :
    State.Touches (modeRegisters m) (fun _ => false) (isStk m) s s1 := by
  unfold openWritten at h
  obtain ⟨p, s2, h1, h⟩ := Res.bind_eq_ok.1 h
  cases h
  exact ((locateField_touches h1).trans (stepRegister_touches m s2)).mono (by simp) (by simp) (by simp)

/-- Evaluating an address operand touches only its mode's register (30 R120). -/
theorem addressOf_touches {sp0 : Word} {m : Mode .address} {s s1 : State} {a : Word}
    (h : addressOf sp0 m s = .ok a s1) :
    State.Touches (modeRegisters m) (fun _ => false) false s s1 := by
  unfold addressOf at h
  obtain ⟨_, s0, hf, h⟩ := Res.bind_eq_ok.1 h
  obtain ⟨a0, b0, -⟩ := fetchField_eq_ok hf
  refine ((a0.touches b0 [] (fun _ => false) false).trans (t := s0)
    (r2 := modeRegisters m) (b2 := fun _ => false) (k2 := false) ?_).mono (by simp) (by simp) (by simp)
  have key : ∀ h' : (locate .a sp0 m s0).bind (fun p s1 =>
      match p with
      | .mem a => Res.ok a (stepRegister m s1)
      | _ => .exc 16 s1) = .ok a s1,
      State.Touches (modeRegisters m) (fun _ => false) false s0 s1 := by
    intro h'
    obtain ⟨p, s2, h1, h'⟩ := Res.bind_eq_ok.1 h'
    have hk : isStk m = false := by
      cases m <;> first | rfl | (simp [locate, modeIllegal] at h1)
    have ht := locate_touches h1
    cases p <;> simp only [reduceCtorEq, Res.ok.injEq] at h'
    obtain ⟨-, rfl⟩ := h'
    exact (ht.trans (stepRegister_touches m s2)).mono (by simp) (by simp) (by simp [hk])
  split at h
  · simp only [Res.ok.injEq] at h
    obtain ⟨-, rfl⟩ := h
    exact State.Touches.refl _ _ _ _
  · simp only [Res.ok.injEq] at h
    obtain ⟨-, rfl⟩ := h
    exact State.Touches.refl _ _ _ _
  · exact key h

/-- Writing a place touches its registers or its bytes only (30 R119). -/
theorem writePlace_touches {t : OpType} {p : Place} {v : BitVec t.bits} {s s1 : State} {u : Unit}
    (h : writePlace t p v s = .ok u s1) :
    State.Touches (placeRegisters t p) (placeBytes t p) false s s1 := by
  cases p with
  | value => cases h
  | reg n =>
    simp only [writePlace, Res.ok.injEq, true_and] at h
    subst h
    simp only [placeRegisters]
    split
    · exact (s.touches_setPair n _).mono (by simp) (by simp) (by simp)
    · exact (s.touches_setReg n _).mono (by simp) (by simp) (by simp)
  | mem a =>
    exact (writeMem_touches h).mono (by simp [placeRegisters]) (by simp [placeBytes]) (by simp)

/-! ### What is touched leaves the rest -/

theorem State.Touches.sameBut {regs : List Reg} {bytes : Nat → Bool} {stk : Bool} {s t : State}
    (h : State.Touches regs bytes stk s t) : State.SameBut regs bytes 0 stk s t := h.toSameBut

theorem State.Touches.following {regs : List Reg} {bytes : Nat → Bool} {stk : Bool} {s t : State}
    (h : State.Touches regs bytes stk s t) (n : Nat) : t.following n = s.following n := by
  unfold State.following
  rw [h.ps, h.pc]

/-! ### The bits of PS -/

theorem getLsbD_setBit (x : Word) (i j : Nat) (b : Bool) :
    (setBit x i b).getLsbD j = if j = i ∧ i < 32 then b else x.getLsbD j := by
  unfold setBit
  by_cases hj : j < 32
  · cases b <;> by_cases h : j = i
    · subst h; simp [hj]
    · simp only [Bool.false_eq_true, if_false, BitVec.getLsbD_and, BitVec.getLsbD_not, hj, decide_true,
        Bool.true_and, BitVec.getLsbD_shiftLeft, h, false_and]
      by_cases hl : j < i
      · simp [hl]
      · have : (1#32).getLsbD (j - i) = false := by
          rw [BitVec.getLsbD_one]; simp; omega
        simp [this]
    · subst h; simp [hj]
    · simp only [if_true, BitVec.getLsbD_or, BitVec.getLsbD_shiftLeft, hj, decide_true, Bool.true_and, h,
        false_and, if_false]
      by_cases hl : j < i
      · simp [hl]
      · have : (1#32).getLsbD (j - i) = false := by
          rw [BitVec.getLsbD_one]; simp; omega
        simp [this]
  · have h1 : ∀ y : Word, y.getLsbD j = false := fun y => BitVec.getLsbD_of_ge y j (by omega)
    rw [h1, h1]
    split
    · omega
    · rfl

/-- Every bit of PS after the condition flags are written (10 R15). -/
theorem getLsbD_withCond (ps : Word) (c v z n u : Bool) (j : Nat) :
    (Ps.withCond ps c v z n u).getLsbD j =
      if j = 4 then u else if j = 3 then n else if j = 2 then z else if j = 1 then v
      else if j = 0 then c else ps.getLsbD j := by
  simp [Ps.withCond, getLsbD_setBit]

/-- Every bit of PS after the floating-point flags are written (10 R16). -/
theorem getLsbD_withFp (ps : Word) (ix uf fz ovf inv : Bool) (j : Nat) :
    (Ps.withFp ps ix uf fz ovf inv).getLsbD j =
      if j = 9 then inv else if j = 8 then ovf else if j = 7 then fz else if j = 6 then uf
      else if j = 5 then ix else ps.getLsbD j := by
  simp [Ps.withFp, getLsbD_setBit]

/-- Every bit of PS after PS.REP is written (10 R19). -/
theorem getLsbD_withRep (ps : Word) (m : BitVec 2) (j : Nat) :
    (Ps.withRep ps m).getLsbD j =
      if j = 31 then m.getLsbD 1 else if j = 30 then m.getLsbD 0 else ps.getLsbD j := by
  simp [Ps.withRep, getLsbD_setBit]

theorem and_not_eq {x y m : Word} (h : ∀ j, m.getLsbD j = false → x.getLsbD j = y.getLsbD j) :
    x &&& ~~~m = y &&& ~~~m := by
  apply BitVec.eq_of_getLsbD_eq
  intro j hj
  simp only [BitVec.getLsbD_and, BitVec.getLsbD_not, hj, decide_true, Bool.true_and]
  cases hm : m.getLsbD j
  · simp [h j hm]
  · simp

/-- The condition flags are bits 0 to 4. -/
theorem withCond_and (ps : Word) (c v z n u : Bool) :
    Ps.withCond ps c v z n u &&& ~~~(0x1F : Word) = ps &&& ~~~(0x1F : Word) := by
  apply and_not_eq
  intro j hj
  rw [getLsbD_withCond]
  have h : ∀ i, i < 5 → j ≠ i := by
    rintro i hi rfl
    interval_cases j <;> simp at hj
  simp [h]

/-- The condition and floating-point flags are bits 0 to 9. -/
theorem withFp_withCond_and (ps : Word) (c v z n u ix uf fz ovf inv : Bool) :
    Ps.withFp (Ps.withCond ps c v z n u) ix uf fz ovf inv &&& ~~~(0x3FF : Word) =
      ps &&& ~~~(0x3FF : Word) := by
  apply and_not_eq
  intro j hj
  rw [getLsbD_withFp, getLsbD_withCond]
  have h : ∀ i, i < 10 → j ≠ i := by
    rintro i hi rfl
    interval_cases j <;> simp at hj
  simp [h]

/-- PS.REP is bits 30 and 31. -/
theorem withRep_and (ps : Word) (m : BitVec 2) :
    Ps.withRep ps m &&& ~~~(0xC0000000 : Word) = ps &&& ~~~(0xC0000000 : Word) := by
  apply and_not_eq
  intro j hj
  rw [getLsbD_withRep]
  have h31 : j ≠ 31 := by rintro rfl; simp at hj
  have h30 : j ≠ 30 := by rintro rfl; simp at hj
  simp [h31, h30]

@[simp] theorem Ps.rep_withCond (ps : Word) (c v z n u : Bool) :
    Ps.rep (Ps.withCond ps c v z n u) = Ps.rep ps := by
  apply BitVec.eq_of_getLsbD_eq
  intro i hi
  simp only [Ps.rep, BitVec.getLsbD_extractLsb', getLsbD_withCond]
  have : ∀ k, k < 5 → 30 + i ≠ k := by omega
  simp [this]

@[simp] theorem Ps.rep_withFp (ps : Word) (ix uf fz ovf inv : Bool) :
    Ps.rep (Ps.withFp ps ix uf fz ovf inv) = Ps.rep ps := by
  apply BitVec.eq_of_getLsbD_eq
  intro i hi
  simp only [Ps.rep, BitVec.getLsbD_extractLsb', getLsbD_withFp]
  have : ∀ k, k < 10 → 30 + i ≠ k := by omega
  simp [this]

@[simp] theorem Ps.iv_withCond (ps : Word) (c v z n u : Bool) :
    Ps.iv (Ps.withCond ps c v z n u) = Ps.iv ps := by
  simp only [Ps.iv, getLsbD_withCond]
  rfl

@[simp] theorem Ps.ie_withCond (ps : Word) (c v z n u : Bool) :
    Ps.ie (Ps.withCond ps c v z n u) = Ps.ie ps := by
  simp only [Ps.ie, getLsbD_withCond]
  rfl

@[simp] theorem Ps.iv_withFp_withCond (ps : Word) (c v z n u ix uf fz ovf inv : Bool) :
    Ps.iv (Ps.withFp (Ps.withCond ps c v z n u) ix uf fz ovf inv) = Ps.iv ps := by
  simp only [Ps.iv, getLsbD_withFp, getLsbD_withCond]
  rfl

@[simp] theorem Ps.iix_withFp_withCond (ps : Word) (c v z n u ix uf fz ovf inv : Bool) :
    Ps.iix (Ps.withFp (Ps.withCond ps c v z n u) ix uf fz ovf inv) = Ps.iix ps := by
  simp only [Ps.iix, getLsbD_withFp, getLsbD_withCond]
  rfl

@[simp] theorem Ps.ie_withFp_withCond (ps : Word) (c v z n u ix uf fz ovf inv : Bool) :
    Ps.ie (Ps.withFp (Ps.withCond ps c v z n u) ix uf fz ovf inv) = Ps.ie ps := by
  simp only [Ps.ie, getLsbD_withFp, getLsbD_withCond]
  rfl

@[simp] theorem Ps.rep_withRep (ps : Word) (m : BitVec 2) : Ps.rep (Ps.withRep ps m) = m := by
  apply BitVec.eq_of_getLsbD_eq
  intro i hi
  simp only [Ps.rep, BitVec.getLsbD_extractLsb', getLsbD_withRep]
  interval_cases i <;> simp

end Sys2Proof.Machine
end

