-- ==== Sys2Proof/Laws/Abandon.lean ====
section
/-! SUPPORT. What evaluating the fields of an abandoned instruction, and freeing what it could have written, can
change: one lemma per operation of Sys2Proof/Machine/Abandon.lean. -/

namespace Sys2Proof.Machine

/-! ### Operands that fault -/

/-- An operand that cannot be found has changed nothing. -/
theorem locate_eq_exc {t : OpType} {k : Access} {sp0 : Word} {m : Mode t} {n : Nat} {s s1 : State}
    (h : locate k sp0 m s = .exc n s1) : s1 = s := by
  unfold locate at h
  split at h
  · exact (Res.exc.inj h).2.symm
  cases m <;> simp only [Res.bind_eq_exc, Res.exc.injEq, reduceCtorEq, and_false, exists_false, or_false] at h
  case stk => split at h <;> cases h
  all_goals first | exact h.2.symm | exact (readMem_eq_exc.1 h).2.2

/-- A value that cannot be read is an Address Error, and has changed nothing. -/
theorem readPlace_eq_exc {t : OpType} {p : Place} {n : Nat} {s s1 : State} (h : readPlace t p s = .exc n s1) :
    n = 11 ∧ s1 = s := by
  cases p <;> simp only [readPlace, Res.bind_eq_exc, reduceCtorEq, and_false, exists_false, or_false] at h
  have g := readMem_eq_exc.1 h
  tauto

/-- Finding an operand steps a register only by Autodecrement. -/
theorem locate_touches_autodec {t : OpType} {k : Access} {sp0 : Word} {m : Mode t} {s s1 : State} {p : Place}
    (h : locate k sp0 m s = .ok p s1) :
    State.Touches (steppedRegisters true m) (fun _ => false) (isStk m) s s1 := by
  cases m
  case autodec r => exact locate_touches h
  case autoinc r =>
    unfold locate at h
    split at h <;> cases h
    exact .refl _ _ _ _
  case autoskip r =>
    unfold locate at h
    split at h <;> cases h
    exact .refl _ _ _ _
  case autoincInd r =>
    unfold locate at h
    split at h
    · cases h
    obtain ⟨_, _, h1, h2⟩ := Res.bind_eq_ok.1 h
    cases h2
    exact readMem_touches h1 _ _ _
  all_goals exact (locate_touches h).mono (by simp [modeRegisters]) (by simp) (by simp)

theorem steppedRegisters_false {t : OpType} (m : Mode t) : steppedRegisters false m = modeRegisters m := by
  cases m <;> rfl

/-- Finding an operand and reading it, where that faults: a register may have been stepped by Autodecrement, unless the
field is illegal. -/
theorem locateRead_touches_of_exc {t : OpType} {γ : Type} {k : Access} {sp0 : Word} {m : Mode t} {n : Nat}
    {s s1 : State} {r : BitVec t.bits → Place → State → γ} {g : BitVec t.bits → State → State}
    (h : (locateField k sp0 m s).bind (fun p s2 => (readPlace t p s2).bind fun v s3 => .ok (r v p s3) (g v s3)) =
      .exc n s1) :
    State.Touches (if n = 16 then [] else steppedRegisters true m) (fun _ => false) (isStk m) s s1 := by
  have field {q : State} (hf : fetchField k m s = .ok () q) : State.Touches [] (fun _ => false) false s q := by
    obtain ⟨a, b, -⟩ := fetchField_eq_ok hf
    exact a.touches b _ _ _
  simp only [locateField, Res.bind_eq_exc, Res.bind_eq_ok, reduceCtorEq, and_false, exists_false, or_false] at h
  rcases h with (h | ⟨_, q, h0, h⟩) | ⟨p, q, ⟨_, q0, h0, h1⟩, h2⟩
  · exact absurd h fetchField_ne_exc
  · rw [locate_eq_exc h]
    exact (field h0).mono (by simp) (by simp) (by simp)
  · obtain ⟨rfl, rfl⟩ := readPlace_eq_exc h2
    exact ((field h0).trans (locate_touches_autodec h1)).mono (by simp) (by simp) (by simp)

/-- The same for an operand that is only found. -/
theorem locateField_touches_of_exc {t : OpType} {k : Access} {sp0 : Word} {m : Mode t} {n : Nat} {s s1 : State}
    (h : locateField k sp0 m s = .exc n s1) (regs : List Reg) (stk : Bool) :
    State.Touches regs (fun _ => false) stk s s1 := by
  simp only [locateField, Res.bind_eq_exc] at h
  rcases h with h | ⟨_, q, h0, h⟩
  · exact absurd h fetchField_ne_exc
  · rw [locate_eq_exc h]
    obtain ⟨a, b, -⟩ := fetchField_eq_ok h0
    exact a.touches b _ _ _

/-! ### The fields of an abandoned instruction -/

/-- Evaluating a field touches only its mode's register, and SP if it is STK. -/
theorem evaluateField_touches {sp0 : Word} {first : Option Field} {f : Field} {s s1 : State} {p : Option Place}
    (h : evaluateField sp0 first f s = .ok p s1) :
    State.Touches (steppedRegisters false f.mode) (fun _ => false) (isStk f.mode) s s1 := by
  rw [steppedRegisters_false]
  unfold evaluateField at h
  split at h <;> obtain ⟨q, s2, h1, h2⟩ := Res.bind_eq_ok.1 h <;> cases h2
  · exact openWritten_touches h1
  · exact openModified_touches h1
  · exact ((locateField_touches h1).trans (stepRegister_touches f.mode s2)).mono (by simp) (by simp) (by simp)
  · exact locateField_touches h1
  · exact readSecond_touches h1
  · exact readField_touches h1
  · exact readField_touches h1

/-- A field that faults has touched its mode's register only by Autodecrement, and SP if it is STK. -/
theorem evaluateField_touches_of_exc {sp0 : Word} {first : Option Field} {f : Field} {n : Nat} {s s1 : State}
    (h : evaluateField sp0 first f s = .exc n s1) :
    State.Touches (if n = 16 then [] else steppedRegisters true f.mode) (fun _ => false) (isStk f.mode) s s1 := by
  unfold evaluateField at h
  split at h <;> simp only [Res.bind_eq_exc, reduceCtorEq, and_false, exists_false, or_false] at h
  · simp only [openWritten, Res.bind_eq_exc, reduceCtorEq, and_false, exists_false, or_false] at h
    exact locateField_touches_of_exc h _ _
  · exact locateRead_touches_of_exc h
  · exact locateField_touches_of_exc h _ _
  · exact locateField_touches_of_exc h _ _
  · exact locateRead_touches_of_exc h
  · exact locateRead_touches_of_exc h
  · exact locateRead_touches_of_exc h

/-- What `fieldTouched` answers holds the registers and the SP that the evaluation of the field has changed. -/
theorem fieldTouched_touches {sp0 : Word} {first : Option Field} {f : Field} {s s1 : State} {w : Touched}
    (h : fieldTouched sp0 first f s = .ok w s1) : State.Touches w.regs (fun _ => false) w.sp s s1 := by
  have sp {regs : List Reg} {k : Bool} {t : State} (ht : State.Touches regs (fun _ => false) k s t) :
      State.Touches regs (fun _ => false) (t.sp != s.sp) s t :=
    { ht with sp := fun e => by simpa using e }
  unfold fieldTouched at h
  split at h
  · rename_i h1
    cases h
    exact (sp (evaluateField_touches h1)).mono
      (by simp +contextual [Touched.followedBy]) (by simp) (by simp +contextual [Touched.followedBy])
  · rename_i h1
    cases h
    exact sp (evaluateField_touches_of_exc h1)
  · cases h

/-- What `fieldsTouched` answers holds the registers and the SP that the evaluation of the fields has changed. -/
theorem fieldsTouched_touches {sp0 : Word} {first : Option Field} {fs : List Field} {s s1 : State} {w : Touched}
    (h : fieldsTouched sp0 first fs s = .ok w s1) : State.Touches w.regs (fun _ => false) w.sp s s1 := by
  induction fs generalizing s w first with
  | nil => cases h; exact .refl _ _ _ _
  | cons f fs ih =>
    obtain ⟨w1, s2, h1, h2⟩ := Res.bind_eq_ok.1 h
    have a := fieldTouched_touches h1
    split at h2
    · obtain ⟨v, s3, h3, h4⟩ := Res.bind_eq_ok.1 h2
      cases h4
      exact (a.trans (ih h3)).mono (by simp [Touched.followedBy]) (by simp) (by simp [Touched.followedBy])
    · cases h2
      exact a

/-! ### Free values -/

/-- Freeing a range of bytes touches these bytes. -/
theorem scrambleBytes_touches (s : State) (a n : Nat) :
    State.Touches [] (fun x => decide (a ≤ x) && decide (x < a + n)) false s (scrambleBytes s a n) := by
  induction n generalizing s a with
  | zero => exact .refl _ _ _ _
  | succ n ih =>
    have one (b : Nat) : State.Touches [] (fun x => decide (x = a)) false s (s.store .other a 1 b) := by
      constructor
      case toSameBut =>
        constructor
        case agents =>
          refine fun e => ⟨fun x hx => ?_, rfl, rfl, rfl, rfl, rfl, rfl, rfl, e⟩
          exact Memory.get_write_of_not_mem _ _ _ _ _ (by simp at hx; omega)
        all_goals first | rfl | exact fun _ => rfl | exact fun _ _ => rfl
      all_goals rfl
    refine ((one _).trans (ih _ (a + 1))).mono (by simp) (fun x hx => ?_) (by simp)
    simp only [Bool.and_eq_false_iff, Bool.or_eq_false_iff, decide_eq_false_iff_not] at hx ⊢
    omega

/-- Freeing ranges of bytes touches these bytes. -/
theorem scrambleRanges_touches (s : State) (l : List (Nat × Nat)) :
    State.Touches [] (fun x => l.any fun g => decide (g.1 ≤ x) && decide (x < g.1 + g.2)) false s
      (l.foldl (fun t g => scrambleBytes t g.1 g.2) s) := by
  induction l generalizing s with
  | nil => exact .refl _ _ _ _
  | cons g l ih =>
    exact ((scrambleBytes_touches s g.1 g.2).trans (ih _)).mono (by simp) (by simp) (by simp)

/-- Freeing registers touches these registers. -/
theorem scrambleRegisters_touches (s : State) (rs : List Reg) :
    State.Touches rs (fun _ => false) false s (scrambleRegisters s rs) := by
  induction rs generalizing s with
  | nil => exact .refl _ _ _ _
  | cons r rs ih =>
    exact ((s.touches_setReg r _).trans (ih _)).mono (by simp) (by simp) (by simp)

end Sys2Proof.Machine
end

