-- ==== Sys2Proof/Laws/Entry.lean ====
section
/-! SUPPORT. Taking an interrupt (60 R404): what an entry answers, and what it leaves as it was. -/

namespace Sys2Proof.Machine

/-- No change of SP is no crossing of the limit (60 R416). -/
@[simp] theorem crossed_self (a : Word) : crossed a a = false := by
  simp [crossed]

/-- Two words on the stack (10 R21). -/
theorem sub_four_four (x : Word) : x - 4 - 4 = x - 8 := by bv_omega

@[simp] theorem State.entered_sp (s : State) (n : Nat) (q : Word) : (s.entered n q).sp = s.sp - 8 := by
  simp only [State.entered, State.store]
@[simp] theorem State.entered_regs (s : State) (n : Nat) (q : Word) : (s.entered n q).regs = s.regs := by
  simp only [State.entered, State.store]
@[simp] theorem State.entered_fr (s : State) (n : Nat) (q : Word) : (s.entered n q).fr = s.fr := by
  simp only [State.entered, State.store]
@[simp] theorem State.entered_stuck (s : State) (n : Nat) (q : Word) : (s.entered n q).stuck = s.stuck := by
  simp only [State.entered, State.store]
@[simp] theorem State.entered_waiting (s : State) (n : Nat) (q : Word) : (s.entered n q).waiting = false := by
  simp only [State.entered, State.store]

/-- Memory after an entry: PS and the PC value pushed (60 R404). -/
theorem State.entered_mem (s : State) (n : Nat) (q : Word) : (s.entered n q).mem =
    (s.mem.write (s.sp - 4).toNat 4 s.ps.toNat).write (s.sp - 8).toNat 4 q.toNat := rfl

/-- A push inside memory (10 R21). -/
theorem push_inside {v : Word} {s : State} (hd : s.during = []) (h : (s.sp - 4).toNat + 4 ≤ memoryBytes) :
    push v s = .ok () ({ s with sp := s.sp - 4 }.store .other (s.sp - 4).toNat 4 v.toNat) :=
  (push_eq_ok hd).2 ⟨h, rfl⟩

/-- A vector lies inside memory (60 R407). -/
theorem readMem_vector {n : Nat} (hn : n < 256) (i : Nat) (hi : i = 0 ∨ i = 4) {s : State} (hd : s.during = []) :
    readMem false (BitVec.ofNat 32 (8 * n + i)) 4 s = .ok (s.load false (8 * n + i) 4) s := by
  have e : (BitVec.ofNat 32 (8 * n + i)).toNat = 8 * n + i := by
    rw [BitVec.toNat_ofNat]
    omega
  refine (readMem_eq_ok hd).2 ⟨?_, by rw [e], rfl⟩
  rw [e]
  unfold memoryBytes
  omega

/-- An entry that can be made is made (60 R404). -/
theorem enterOnly_of_canEnter {s : State} {n : Nat} {q : Word} (h : s.canEnter n q) :
    enterOnly n q s = .next (s.entered n q) := by
  obtain ⟨h0, hd, hn, h1, h2, h3, h4⟩ := h
  rw [enterOnly_eq_next]
  have h2' : ({ s with sp := s.sp - 4 }.store .other (s.sp - 4).toNat 4 s.ps.toNat).sp - 4 = s.sp - 8 :=
    sub_four_four s.sp
  have p1 := push_inside (v := s.ps) hd h1
  have p2 := push_inside (v := q)
    (s := { s with sp := s.sp - 4 }.store .other (s.sp - 4).toNat 4 s.ps.toNat) hd (by rw [h2']; exact h2)
  rw [h2'] at p2
  exact ⟨h0, .inl (entrySequence_eq_ok.2 ⟨_, _, _, _, _, _, p1, p2, readMem_vector hn 0 (.inl rfl) hd,
    readMem_vector hn 4 (.inr rfl) hd, h3, h4, rfl⟩)⟩

/-- The same, with the check for Stack Overflow after it (60 R416). -/
theorem enter_of_canEnter {s : State} {n : Nat} {q : Word} (h : s.canEnter n q) :
    enter n q s = checkStack s.sp (s.entered n q).pc (s.entered n q) := by
  rw [enter, enterOnly_of_canEnter h]

/-- The bytes that an entry leaves alone (60 R404). -/
theorem State.get_entered (s : State) (n : Nat) (q : Word) {x : Nat} (hx : pushedEight s x = false) :
    (s.entered n q).mem.get x = s.mem.get x := by
  simp only [pushedEight, Bool.or_eq_false_iff, Bool.and_eq_false_iff, decide_eq_false_iff_not,
    Nat.not_le, Nat.not_lt] at hx
  rw [State.entered_mem, Memory.get_write_of_not_mem _ _ _ _ _ hx.2, Memory.get_write_of_not_mem _ _ _ _ _ hx.1]

/-- The vector is read past the pushes, whatever PC value they hold. -/
theorem State.entered_ps (s : State) (n : Nat) (q : Word) (h : s.Plain)
    (h1 : 8 * n + 8 ≤ (s.sp - 8).toNat) (h2 : (s.sp - 8).toNat ≤ (s.sp - 4).toNat) :
    (s.entered n q).ps = BitVec.ofNat 32 (s.mem.read (8 * n + 4) 4) := by
  have hp : ({ s with sp := s.sp - 4 } : State).Plain := h
  have hq : ({ { s with sp := s.sp - 4 }.store .other (s.sp - 4).toNat 4 s.ps.toNat with
      sp := s.sp - 8 } : State).Plain :=
    hp.store (k := .other) (by decide) (s.sp - 4).toNat 4 s.ps.toNat
  have e : (s.entered n q).ps = BitVec.ofNat 32
      ((s.entered n q).mem.read (8 * n + 4) 4) := by
    simp only [State.entered]
    rw [State.load_of_plain (hq.store (k := .other) (by decide) (s.sp - 8).toNat 4 q.toNat)]
  have g : ∀ x, x < 8 * n + 8 → (s.entered n q).mem.get x = s.mem.get x := by
    intro x hx
    refine State.get_entered s n q ?_
    simp only [pushedEight, Bool.or_eq_false_iff, Bool.and_eq_false_iff, decide_eq_false_iff_not]
    omega
  rw [e]
  simp only [Memory.read]
  rw [g _ (by omega), g _ (by omega), g _ (by omega), g _ (by omega)]

/-- No bit of PS is claimed unchanged by an entry. -/
theorem and_no_bits (x y : Word) : x &&& ~~~0xFFFFFFFF = y &&& ~~~0xFFFFFFFF := by
  rw [show ~~~(0xFFFFFFFF : Word) = 0#32 from by decide, BitVec.and_zero, BitVec.and_zero]

/-- An entry changes the eight bytes it pushes, PC, PS and SP (60 R404). -/
theorem State.entered_sameBut (s : State) (n : Nat) (q : Word) (h : s.waiting = false) :
    State.SameBut [] (pushedEight s) 0xFFFFFFFF true s (s.entered n q) := by
  constructor
  case registers => exact fun _ _ => rfl
  case sp => exact nofun
  case status => exact and_no_bits _ _
  case waiting => exact h.symm
  case agents => exact fun e => ⟨fun _ => State.get_entered s n q, rfl, rfl, rfl, rfl, rfl, rfl, rfl, e⟩
  all_goals simp only [State.entered, State.store]

/-- Operand Error, Unimplemented Opcode and the like, raised before anything has happened (60 R402,
R405). -/
theorem finish_exc_of_canEnter {s : State} {n : Nat} (h : s.canEnter n s.pc)
    (hc : crossed s.sp (s.sp - 8) = false) : finish s (.exc n s) = .next (s.entered n s.pc) := by
  rw [finish_exc (crossed_self s.sp), enter_of_canEnter h,
    checkStack_of_not_crossed (by rw [State.entered_sp]; exact hc)]

/-! ### Interrupts at a boundary, and errors in their entry (60 R402, R419) -/

/-- An error is corrected in the accesses of a turn when some outcome is that, and none before it is uncorrectable. -/
theorem correctedIn_iff (eccs : List Ecc) : correctedIn eccs = true ↔
    ∃ before after, eccs = before ++ .corrected :: after ∧ Ecc.uncorrectable ∉ before := by
  induction eccs with
  | nil => simp [correctedIn]
  | cons e es ih =>
    cases e <;> simp only [correctedIn, Bool.false_eq_true, false_iff, true_iff]
    · refine ih.trans ⟨?_, ?_⟩
      · rintro ⟨b, a, rfl, hb⟩
        exact ⟨.clean :: b, a, rfl, by simpa using hb⟩
      · rintro ⟨b, a, h, hb⟩
        cases b with
        | nil => simp at h
        | cons x b => exact ⟨b, a, (List.cons.inj h).2, fun hm => hb (.tail _ hm)⟩
    · exact ⟨[], es, rfl, by simp⟩
    · rintro ⟨b, a, h, hb⟩
      cases b with
      | nil => simp at h
      | cons x b => exact hb (by rw [← (List.cons.inj h).1]; exact .head _)

/-- Taking an interrupt that can be entered and leaves SP at 2048 or more: its entry, with the conditions of 14 and 15
cleared and the marker set. -/
theorem takeInterrupt_of_canEnter {s : State} {n : Nat} (h : s.canEnter n s.pc)
    (hc : crossed s.sp (s.sp - 8) = false) :
    takeInterrupt n s = .next { s.entered n s.pc with
      cePending := s.cePending && n != 14
      uePending := s.uePending && n != 15
      ueMarker := s.ueMarker || n == 15 } := by
  unfold takeInterrupt
  rw [enter_of_canEnter (by exact h), checkStack_of_not_crossed (by rw [State.entered_sp]; exact hc)]
  rfl

/-- An entry that has not left the machine stuck, with an uncorrectable error in it. -/
@[simp] theorem errorInEntry_next {s t : State} (h : t.stuck = false) :
    errorInEntry s (.next t) = .next (t.noteUncorrectable s.unserviced) := by simp [errorInEntry, h]

/-- An entry that has not left the machine stuck, with a corrected error in it. -/
@[simp] theorem correctedInEntry_next {t : State} (h : t.stuck = false) :
    correctedInEntry (.next t) = .next { t with cePending := true } := by simp [correctedInEntry, h]

end Sys2Proof.Machine
end

