-- ==== Sys2Proof/Laws/Forms.lean ====
section
/-! SUPPORT. One lemma per shape of Forms.lean: how an instruction of that shape ends, in the terms of
Safety.lean. -/

namespace Sys2Proof.Machine

variable {t u : OpType} {i : Instr} {s s2 s3 : State} {p : Place}

/-! ### What is touched by reading both fields and writing the result -/

theorem Modifies.touches {src : Mode t} {des : Mode u} {a : BitVec t.bits} {b : BitVec u.bits}
    (h : Modifies src des s a b p s2) :
    State.Touches (modeRegisters src ++ modeRegisters des) (fun _ => false) (isStk src || isStk des)
      s s2 := by
  obtain ⟨s1, h1, h2⟩ := h
  exact ((readField_touches h1).trans (openModified_touches h2)).mono (by simp) (by simp) (by simp)

theorem Writes.touches {src : Mode t} {des : Mode u} {a : BitVec t.bits} (h : Writes src des s a p s2) :
    State.Touches (modeRegisters src ++ modeRegisters des) (fun _ => false) (isStk src || isStk des)
      s s2 := by
  obtain ⟨s1, h1, h2⟩ := h
  exact ((readField_touches h1).trans (openWritten_touches h2)).mono (by simp) (by simp) (by simp)

theorem Compares.touches {src : Mode t} {des : Mode u} {a : BitVec t.bits} {b : BitVec u.bits}
    (h : Compares src des s a b s2) :
    State.Touches (modeRegisters src ++ modeRegisters des) (fun _ => false) (isStk src || isStk des)
      s s2 := by
  obtain ⟨s1, h1, h2⟩ := h
  exact ((readField_touches h1).trans (readSecond_touches h2)).mono (by simp) (by simp) (by simp)

theorem Values.touches {src : Mode t} {des : Mode u} {a : BitVec t.bits} {b : BitVec u.bits}
    (h : Values src des s a b s2) :
    State.Touches (modeRegisters src ++ modeRegisters des) (fun _ => false) (isStk src || isStk des)
      s s2 := by
  obtain ⟨s1, h1, h2⟩ := h
  exact ((readField_touches h1).trans (readField_touches h2)).mono (by simp) (by simp) (by simp)

theorem State.Touches.write {regs : List Reg} {stk : Bool}
    (h : State.Touches regs (fun _ => false) stk s s2) {v : BitVec u.bits} {w : Unit}
    (hw : writePlace u p v s2 = .ok w s3) :
    State.Touches (regs ++ placeRegisters u p) (placeBytes u p) stk s s3 :=
  (h.trans (writePlace_touches hw)).mono (by simp) (by simp) (by simp)

/-- What is touched from a state whose FR is written first. -/
theorem State.Touches.withFr {regs : List Reg} {bytes : Nat → Bool} {stk : Bool}
    (h : State.Touches regs bytes stk s s2) (fr : Word) :
    State.Touches regs bytes stk { s with fr := fr } { s2 with fr := fr } where
  registers := h.registers
  sp := h.sp
  status := h.status
  agents e :=
    have g := h.agents e
    ⟨g.memory, g.tr, g.pe, g.io, g.inPorts, g.outPorts, g.broadcast, g.bootPort, g.during⟩
  fr := rfl
  cr := h.cr
  pi := h.pi
  oe := h.oe
  ie := h.ie
  errorFlag := h.errorFlag
  romActive := h.romActive
  inhibit := h.inhibit
  ueMarker := h.ueMarker
  uePending := h.uePending
  cePending := h.cePending
  waiting := h.waiting
  stuck := h.stuck
  traceDue := h.traceDue
  freeCount := h.freeCount
  schedule := h.schedule
  ps := h.ps
  pc := h.pc

/-- The state after what is touched and PS, PC and FR are written. -/
theorem State.Touches.sameButAll {regs : List Reg} {bytes : Nat → Bool} {stk : Bool} {mask ps pc fr fr' : Word}
    (h : State.Touches regs bytes stk { s with fr := fr' } s2) (hps : ps &&& ~~~mask = s.ps &&& ~~~mask) :
    State.SameBut regs bytes mask stk s { s2 with ps := ps, pc := pc, fr := fr } where
  registers := h.registers
  sp := h.sp
  status := hps
  agents e :=
    have g := h.agents e
    ⟨g.memory, g.tr, g.pe, g.io, g.inPorts, g.outPorts, g.broadcast, g.bootPort, g.during⟩
  cr := h.cr
  pi := h.pi
  oe := h.oe
  ie := h.ie
  errorFlag := h.errorFlag
  romActive := h.romActive
  inhibit := h.inhibit
  ueMarker := h.ueMarker
  uePending := h.uePending
  cePending := h.cePending
  waiting := h.waiting
  stuck := h.stuck
  traceDue := h.traceDue
  freeCount := h.freeCount
  schedule := h.schedule

/-- How an instruction that raises nothing ends. -/
theorem continues_of_finish {regs : List Reg} {bytes : Nat → Bool} {stk : Bool} {mask : Word} {w : Unit}
    (hb : State.SameBut regs bytes mask stk s s2) (he : exec i s = finish s (.ok w s2)) :
    Continues i s s2 regs bytes mask stk :=
  ⟨hb, fun hc => he.trans (checkStack_of_not_crossed hc), fun hc hs =>
    he.trans (checkStack_of_crossed hc (hb.stuck.trans hs))⟩

/-! ### The integer shapes -/

/-- The end of every shape that stores an integer result or only flags: v says whether Integer Overflow is
computed. -/
theorem ends_integer {regs : List Reg} {bytes : Nat → Bool} {stk : Bool} {mask ps : Word} {v : Bool}
    (ht : State.Touches regs bytes stk s s3) (hps : ps &&& ~~~mask = s.ps &&& ~~~mask)
    (hrep : Ps.rep ps = Ps.rep s.ps) (hiv : Ps.iv ps = Ps.iv s.ps) (hie : Ps.ie ps = Ps.ie s.ps)
    (he : exec i s = finish s (deliverOverflow i.length v { s3 with ps := ps })) :
    EndsInteger i s { s3 with ps := ps } v regs bytes mask stk := by
  have hf : ({ s3 with ps := ps } : State).following i.length = s.following i.length := by
    simp only [State.following, hrep, ht.pc]
  constructor
  · intro hv
    simp only [deliverOverflow, hiv, hie, hv, Bool.false_eq_true, if_false] at he
    refine ⟨continues_of_finish (w := ()) ?_ ?_, ht.fr⟩
    · exact State.Touches.sameButAll (s2 := s3) (fr' := s.fr) ht hps
    · rw [he, State.advance, hf]
  · intro hv hc
    simp only [deliverOverflow, hiv, hie, hv, if_true] at he
    rw [he]
    exact finish_exc hc

theorem deliverOverflow_false (n : Nat) (s : State) :
    deliverOverflow n false s = .ok () (s.advance n) := by
  simp [deliverOverflow]

/-- An instruction that stores a result of both operands. -/
theorem integerModify_ends {src : Mode t} {des : Mode u} {a : BitVec t.bits} {b : BitVec u.bits}
    {op : Bool → BitVec t.bits → BitVec u.bits → AluResult u.bits}
    (he : exec i s = integerModify i.length src des op s) (h : Modifies src des s a b p s2)
    (hw : writePlace u p (op (Ps.c s.ps) a b).des s2 = .ok () s3) :
    EndsInteger i s
      (s3.flagged (op (Ps.c s.ps) a b).c (op (Ps.c s.ps) a b).v (op (Ps.c s.ps) a b).z
        (op (Ps.c s.ps) a b).n)
      (op (Ps.c s.ps) a b).v (modeRegisters src ++ modeRegisters des ++ placeRegisters u p)
      (placeBytes u p) 0x1F (isStk src || isStk des) := by
  have ht := h.touches
  have ht3 := ht.write hw
  obtain ⟨s1, h1, h2⟩ := h
  refine ends_integer ht3 (by rw [ht3.ps]; exact withCond_and _ _ _ _ _ _) (by simp [ht3.ps])
    (by simp [ht3.ps]) (by simp [ht3.ps]) ?_
  rw [he, integerModify, h1, Res.ok_bind, h2, Res.ok_bind, storeInteger, ht.ps, hw]
  rfl

/-- An instruction that stores a result of its source. -/
theorem integerWrite_ends {src : Mode t} {des : Mode u} {a : BitVec t.bits}
    {op : Bool → BitVec t.bits → AluResult u.bits}
    (he : exec i s = integerWrite i.length src des op s) (h : Writes src des s a p s2)
    (hw : writePlace u p (op (Ps.c s.ps) a).des s2 = .ok () s3) :
    EndsInteger i s
      (s3.flagged (op (Ps.c s.ps) a).c (op (Ps.c s.ps) a).v (op (Ps.c s.ps) a).z (op (Ps.c s.ps) a).n)
      (op (Ps.c s.ps) a).v (modeRegisters src ++ modeRegisters des ++ placeRegisters u p)
      (placeBytes u p) 0x1F (isStk src || isStk des) := by
  have ht := h.touches
  have ht3 := ht.write hw
  obtain ⟨s1, h1, h2⟩ := h
  refine ends_integer ht3 (by rw [ht3.ps]; exact withCond_and _ _ _ _ _ _) (by simp [ht3.ps])
    (by simp [ht3.ps]) (by simp [ht3.ps]) ?_
  rw [he, integerWrite, h1, Res.ok_bind, h2, Res.ok_bind, storeInteger, ht.ps, hw]
  rfl

/-- An instruction that writes only flags. -/
theorem integerCompare_ends {src : Mode t} {des : Mode u} {a : BitVec t.bits} {b : BitVec u.bits}
    {op : Bool → BitVec t.bits → BitVec u.bits → AluResult u.bits}
    (he : exec i s = integerCompare i.length src des op s) (h : Compares src des s a b s2) :
    EndsInteger i s
      (s2.flagged (op (Ps.c s.ps) a b).c (op (Ps.c s.ps) a b).v (op (Ps.c s.ps) a b).z
        (op (Ps.c s.ps) a b).n)
      false (modeRegisters src ++ modeRegisters des) (fun _ => false) 0x1F (isStk src || isStk des) := by
  have ht := h.touches
  obtain ⟨s1, h1, h2⟩ := h
  refine ends_integer ht (by rw [ht.ps]; exact withCond_and _ _ _ _ _ _) (by simp [ht.ps])
    (by simp [ht.ps]) (by simp [ht.ps]) ?_
  rw [he, integerCompare, h1, Res.ok_bind, h2, Res.ok_bind, deliverOverflow_false, ht.ps]
  simp only [State.setFlags, ht.ps]

/-- A division with a result. -/
theorem integerDivide_ends {src : Mode t} {des : Mode u} {a : BitVec t.bits} {b : BitVec u.bits}
    {op : Bool → BitVec t.bits → BitVec u.bits → Option (AluResult u.bits)} {r : AluResult u.bits}
    (he : exec i s = integerDivide i.length src des op s) (h : Modifies src des s a b p s2)
    (hr : op (Ps.c s.ps) a b = some r) (hw : writePlace u p r.des s2 = .ok () s3) :
    EndsInteger i s (s3.flagged r.c r.v r.z r.n) r.v
      (modeRegisters src ++ modeRegisters des ++ placeRegisters u p) (placeBytes u p) 0x1F
      (isStk src || isStk des) := by
  have ht := h.touches
  have ht3 := ht.write hw
  obtain ⟨s1, h1, h2⟩ := h
  refine ends_integer ht3 (by rw [ht3.ps]; exact withCond_and _ _ _ _ _ _) (by simp [ht3.ps])
    (by simp [ht3.ps]) (by simp [ht3.ps]) ?_
  rw [he, integerDivide, h1, Res.ok_bind, h2, Res.ok_bind, ht.ps, hr]
  simp only [storeInteger, hw]
  rfl

/-- A division without a result. -/
theorem integerDivide_zero {src : Mode t} {des : Mode u} {a : BitVec t.bits} {b : BitVec u.bits}
    {op : Bool → BitVec t.bits → BitVec u.bits → Option (AluResult u.bits)}
    (he : exec i s = integerDivide i.length src des op s) (h : Modifies src des s a b p s2)
    (hr : op (Ps.c s.ps) a b = none) :
    Raises i 4 s s2 ∧
      State.SameBut (modeRegisters src ++ modeRegisters des) (fun _ => false) 0
        (isStk src || isStk des) s s2 := by
  have ht := h.touches
  obtain ⟨s1, h1, h2⟩ := h
  refine ⟨fun hc => ?_, ht.sameBut⟩
  rw [he, integerDivide, h1, Res.ok_bind, h2, Res.ok_bind, ht.ps, hr]
  exact finish_exc hc

/-- A conversion to an integer. -/
theorem integerConvert_ends {src : Mode t} {des : Mode u} {a : BitVec t.bits}
    {op : Bool → BitVec t.bits → AluResult u.bits}
    (he : exec i s = integerConvert i.length src des op s) (h : Writes src des s a p s2)
    (hw : writePlace u p (op (Ps.c s.ps) a).des s2 = .ok () s3) :
    EndsInteger i s
      { s3 with ps := Ps.withFp (Ps.withCond s.ps (op (Ps.c s.ps) a).c (op (Ps.c s.ps) a).v
          (op (Ps.c s.ps) a).z (op (Ps.c s.ps) a).n false) false false false false false }
      (op (Ps.c s.ps) a).v (modeRegisters src ++ modeRegisters des ++ placeRegisters u p)
      (placeBytes u p) 0x3FF (isStk src || isStk des) := by
  have ht := h.touches
  have ht3 := ht.write hw
  obtain ⟨s1, h1, h2⟩ := h
  refine ends_integer ht3 (withFp_withCond_and _ _ _ _ _ _ _ _ _ _ _) (by simp) (by simp) (by simp) ?_
  rw [he, integerConvert, h1, Res.ok_bind, h2, Res.ok_bind, ht.ps]
  simp only [hw, Res.ok_bind, State.setFlags, ht3.ps]

/-- A move of an integer. -/
theorem moveInteger_ends {src des : Mode t} {a : BitVec t.bits}
    (he : exec i s = moveInteger i.length src des s) (h : Writes src des s a p s2)
    (hw : writePlace t p a s2 = .ok () s3) :
    Continues i s { s3 with pc := s.following i.length }
        (modeRegisters src ++ modeRegisters des ++ placeRegisters t p) (placeBytes t p) 0
        (isStk src || isStk des) ∧
      s3.fr = s.fr := by
  have ht := h.touches
  have ht3 := ht.write hw
  obtain ⟨s1, h1, h2⟩ := h
  refine ⟨continues_of_finish (w := ()) ?_ ?_, ht3.fr⟩
  · exact State.Touches.sameButAll (ps := s3.ps) (fr := s3.fr) (fr' := s.fr) ht3 (by rw [ht3.ps])
  · rw [he, moveInteger, h1, Res.ok_bind, h2, Res.ok_bind, hw, Res.ok_bind, State.advance, ht3.following]

/-! ### The floating-point shapes -/

/-- Storing a floating-point result after the operands are read and FR is written. -/
theorem storeFloat_ends {regs : List Reg} {stk : Bool} {r : FpResult} {fr : Word}
    (ht : State.Touches regs (fun _ => false) stk s s2)
    (he : exec i s = finish s (storeFloat i.length t p r { s2 with fr := fr })) :
    EndsFloat i t p r (regs ++ placeRegisters t p) stk s { s2 with fr := fr } := by
  cases r with
  | invalid =>
    intro hc
    rw [he]
    simp only [storeFloat, Ps.ofNoResult, ht.ps]
    exact finish_exc hc
  | zeroDivide =>
    intro hc
    rw [he]
    simp only [storeFloat, Ps.ofNoResult, ht.ps]
    exact finish_exc hc
  | value b n z ix uf ovf =>
    intro s3 hw
    have ht3 := (ht.withFr fr).write hw
    have hps : s3.ps = s.ps := ht3.ps
    have hpc : s3.pc = s.pc := ht3.pc
    simp only [storeFloat, hw, Res.ok_bind, Ps.ofFloat, hps] at he
    refine ⟨?_, ?_, ?_, ?_⟩
    · intro ho hc
      rw [he]
      simp only [ho, if_true]
      exact finish_exc hc
    · intro ho hu hc
      rw [he]
      simp only [ho, hu, Bool.false_eq_true, if_false, if_true]
      exact finish_exc hc
    · intro ho hu hx hc
      rw [he]
      simp only [ho, hu, Bool.false_eq_true, if_false, Ps.iix_withFp_withCond, Ps.ie_withFp_withCond, hx,
        if_true]
      exact finish_exc hc
    · intro ho hu hx
      refine ⟨continues_of_finish (w := ()) ?_ ?_, ht3.fr⟩
      · exact ht3.sameButAll (fr := s3.fr) (withFp_withCond_and _ _ _ _ _ _ _ _ _ _ _)
      · rw [he]
        simp only [ho, hu, Bool.false_eq_true, if_false, Ps.iix_withFp_withCond, Ps.ie_withFp_withCond, hx]
        simp only [State.advance, State.following, Ps.rep_withFp, Ps.rep_withCond, hpc]

/-- A floating-point instruction over two operands. -/
theorem floatModify_ends {src des : Mode t} {a b : BitVec t.bits}
    {op : BitVec 2 → Nat → Nat → Nat → FpResult}
    (he : exec i s = floatModify i.length src des op s) (h : Modifies src des s a b p s2) :
    EndsFloat i t p (op (Ps.rc s.ps) s.freeCount a.toNat b.toNat)
      (modeRegisters src ++ modeRegisters des ++ placeRegisters t p) (isStk src || isStk des) s
      { s2 with fr := faultTwo (fpFormat t) s.freeCount a.toNat b.toNat } := by
  have ht := h.touches
  obtain ⟨s1, h1, h2⟩ := h
  apply storeFloat_ends ht
  rw [he, floatModify, h1, Res.ok_bind, h2, Res.ok_bind, ht.ps, ht.freeCount]

/-- A floating-point instruction over one operand. -/
theorem floatWrite_ends {src : Mode t} {des : Mode u} {a : BitVec t.bits}
    {op : BitVec 2 → Nat → Nat → FpResult}
    (he : exec i s = floatWrite i.length src des op s) (h : Writes src des s a p s2) :
    EndsFloat i u p (op (Ps.rc s.ps) s.freeCount a.toNat)
      (modeRegisters src ++ modeRegisters des ++ placeRegisters u p) (isStk src || isStk des) s
      { s2 with fr := faultOne (fpFormat t) s.freeCount a.toNat } := by
  have ht := h.touches
  obtain ⟨s1, h1, h2⟩ := h
  apply storeFloat_ends ht
  rw [he, floatWrite, h1, Res.ok_bind, h2, Res.ok_bind, ht.ps, ht.freeCount]

/-- A conversion of an integer to a floating-point value. -/
theorem floatFromInteger_ends {src : Mode t} {des : Mode u} {a : BitVec t.bits}
    (he : exec i s = floatFromInteger i.length src des s) (h : Writes src des s a p s2) :
    EndsFloat i u p ((fpFormat u).ofInt a.toInt)
      (modeRegisters src ++ modeRegisters des ++ placeRegisters u p) (isStk src || isStk des) s
      { s2 with fr := Config.freeFaultBits s.freeCount } := by
  have ht := h.touches
  obtain ⟨s1, h1, h2⟩ := h
  apply storeFloat_ends ht
  rw [he, floatFromInteger, h1, Res.ok_bind, h2, Res.ok_bind, ht.freeCount]

/-- A floating-point comparison. -/
theorem floatCompare_ends {src des : Mode t} {a b : BitVec t.bits}
    (he : exec i s = floatCompare i.length src des s) (h : Compares src des s a b s2) :
    Continues i s
      { s2 with
        fr := faultTwo (fpFormat t) s.freeCount a.toNat b.toNat
        ps := floatCompareFlags (fpFormat t) s.ps a.toNat b.toNat
        pc := s.following i.length }
      (modeRegisters src ++ modeRegisters des) (fun _ => false) 0x3FF (isStk src || isStk des) := by
  have ht := h.touches
  obtain ⟨s1, h1, h2⟩ := h
  refine continues_of_finish (w := ()) ?_ ?_
  · exact State.Touches.sameButAll (s2 := s2) (fr' := s.fr) ht (withFp_withCond_and _ _ _ _ _ _ _ _ _ _ _)
  · rw [he, floatCompare, h1, Res.ok_bind, h2, Res.ok_bind]
    simp only [State.advance, State.following, floatCompareFlags, Ps.rep_withFp, Ps.rep_withCond, ht.ps,
      ht.pc, ht.freeCount]

/-- A move of a floating-point pattern. -/
theorem moveFloat_ends {src des : Mode t} {a : BitVec t.bits}
    (he : exec i s = moveFloat i.length src des s) (h : Writes src des s a p s2)
    (hw : writePlace t p a { s2 with fr := faultOne (fpFormat t) s.freeCount a.toNat } = .ok () s3) :
    Continues i s { s3 with pc := s.following i.length }
        (modeRegisters src ++ modeRegisters des ++ placeRegisters t p) (placeBytes t p) 0
        (isStk src || isStk des) ∧
      s3.fr = faultOne (fpFormat t) s.freeCount a.toNat := by
  have ht := h.touches
  have ht3 := (ht.withFr _).write hw
  obtain ⟨s1, h1, h2⟩ := h
  refine ⟨continues_of_finish (w := ()) ?_ ?_, ht3.fr⟩
  · exact ht3.sameButAll (ps := s3.ps) (fr := s3.fr) (by rw [ht3.ps])
  · have hw' := hw
    rw [← ht.freeCount] at hw'
    rw [he, moveFloat, h1, Res.ok_bind, h2, Res.ok_bind, hw', Res.ok_bind, State.advance, ht3.following]
    rfl

end Sys2Proof.Machine
end

