-- ==== Sys2Proof/Laws/PerInstr.lean ====
section
/-! SUPPORT. Facts proved for every instruction, one lemma per constructor: the family LengthBound says that a
well-formed instruction occupies at least one and at most 19 bytes (30 R92). -/

namespace Sys2Proof

theorem leBytes_length (n v : Nat) : (leBytes n v).length = n := by
  induction n generalizing v with
  | zero => rfl
  | succ n ih => simp [leBytes, ih]

/-- The bytes of a field are as many as its mode says (30 R115). -/
theorem encodeField_length {t : OpType} (m : Mode t) : (encodeField m).length = m.size := by
  cases m <;> simp [encodeField, Mode.size, leBytes_length]; omega

/-- No field is longer than a mode byte and 8 further bytes. -/
theorem Mode.size_le {t : OpType} (m : Mode t) : m.size ≤ 9 := by
  cases m
  case truncated b => cases b <;> simp [Mode.size]
  case immediate => cases t <;> simp [Mode.size, OpType.bits]
  all_goals simp [Mode.size]

/-- A field that an encoding gives has a mode byte. -/
theorem Mode.size_pos {t : OpType} (m : Mode t) (h : m.wellFormed = true) : 1 ≤ m.size := by
  cases m <;> simp_all [Mode.wellFormed, Mode.size]

namespace Laws

/-- A well-formed instruction occupies 1 to 19 bytes. -/
def LengthBound.Statement (i : Instr) : Prop :=
  i.wellFormed = true → 1 ≤ i.length ∧ i.length ≤ maxInstrBytes

theorem length0 {i : Instr} {op : Byte} (h : i.layout = (op, [])) : LengthBound.Statement i := by
  intro _
  simp [Instr.length, encode, h, encodeFields, maxInstrBytes]

theorem length1 {i : Instr} {op : Byte} {f : Field} (h : i.layout = (op, [f])) :
    LengthBound.Statement i := by
  intro _
  have := f.mode.size_le
  simp only [Instr.length, encode, h, encodeFields, List.length_cons, List.length_append,
    encodeField_length, List.length_nil, maxInstrBytes]
  omega

theorem length2 {i : Instr} {op : Byte} {f g : Field} (h : i.layout = (op, [f, g])) :
    LengthBound.Statement i := by
  intro _
  have h1 := f.mode.size_le
  have h2 := g.mode.size_le
  simp only [Instr.length, encode, h, encodeFields, List.length_cons, List.length_append,
    encodeField_length, List.length_nil, maxInstrBytes]
  omega

theorem LengthBound.negb (src des : Mode .byte) :
    LengthBound.Statement (.negb src des) := length2 rfl

theorem LengthBound.negh (src des : Mode .half) :
    LengthBound.Statement (.negh src des) := length2 rfl

theorem LengthBound.negw (src des : Mode .word) :
    LengthBound.Statement (.negw src des) := length2 rfl

theorem LengthBound.sbrb (src des : Mode .byte) :
    LengthBound.Statement (.sbrb src des) := length2 rfl

theorem LengthBound.sbrh (src des : Mode .half) :
    LengthBound.Statement (.sbrh src des) := length2 rfl

theorem LengthBound.sbrw (src des : Mode .word) :
    LengthBound.Statement (.sbrw src des) := length2 rfl

theorem LengthBound.cmpb (src des : Mode .byte) :
    LengthBound.Statement (.cmpb src des) := length2 rfl

theorem LengthBound.cmph (src des : Mode .half) :
    LengthBound.Statement (.cmph src des) := length2 rfl

theorem LengthBound.cmpw (src des : Mode .word) :
    LengthBound.Statement (.cmpw src des) := length2 rfl

theorem LengthBound.addb (src des : Mode .byte) :
    LengthBound.Statement (.addb src des) := length2 rfl

theorem LengthBound.addh (src des : Mode .half) :
    LengthBound.Statement (.addh src des) := length2 rfl

theorem LengthBound.addw (src des : Mode .word) :
    LengthBound.Statement (.addw src des) := length2 rfl

theorem LengthBound.adcb (src des : Mode .byte) :
    LengthBound.Statement (.adcb src des) := length2 rfl

theorem LengthBound.adch (src des : Mode .half) :
    LengthBound.Statement (.adch src des) := length2 rfl

theorem LengthBound.adcw (src des : Mode .word) :
    LengthBound.Statement (.adcw src des) := length2 rfl

theorem LengthBound.subb (src des : Mode .byte) :
    LengthBound.Statement (.subb src des) := length2 rfl

theorem LengthBound.subh (src des : Mode .half) :
    LengthBound.Statement (.subh src des) := length2 rfl

theorem LengthBound.subw (src des : Mode .word) :
    LengthBound.Statement (.subw src des) := length2 rfl

theorem LengthBound.sbbb (src des : Mode .byte) :
    LengthBound.Statement (.sbbb src des) := length2 rfl

theorem LengthBound.sbbh (src des : Mode .half) :
    LengthBound.Statement (.sbbh src des) := length2 rfl

theorem LengthBound.sbbw (src des : Mode .word) :
    LengthBound.Statement (.sbbw src des) := length2 rfl

theorem LengthBound.mulb (src des : Mode .byte) :
    LengthBound.Statement (.mulb src des) := length2 rfl

theorem LengthBound.adcd (src des : Mode .byte) :
    LengthBound.Statement (.adcd src des) := length2 rfl

theorem LengthBound.mulh (src des : Mode .half) :
    LengthBound.Statement (.mulh src des) := length2 rfl

theorem LengthBound.mulw (src des : Mode .word) :
    LengthBound.Statement (.mulw src des) := length2 rfl

theorem LengthBound.dvrb (src des : Mode .byte) :
    LengthBound.Statement (.dvrb src des) := length2 rfl

theorem LengthBound.sbbd (src des : Mode .byte) :
    LengthBound.Statement (.sbbd src des) := length2 rfl

theorem LengthBound.dvrh (src des : Mode .half) :
    LengthBound.Statement (.dvrh src des) := length2 rfl

theorem LengthBound.dvrw (src des : Mode .word) :
    LengthBound.Statement (.dvrw src des) := length2 rfl

theorem LengthBound.remb (src des : Mode .byte) :
    LengthBound.Statement (.remb src des) := length2 rfl

theorem LengthBound.remh (src des : Mode .half) :
    LengthBound.Statement (.remh src des) := length2 rfl

theorem LengthBound.remw (src des : Mode .word) :
    LengthBound.Statement (.remw src des) := length2 rfl

theorem LengthBound.divb (src des : Mode .byte) :
    LengthBound.Statement (.divb src des) := length2 rfl

theorem LengthBound.divh (src des : Mode .half) :
    LengthBound.Statement (.divh src des) := length2 rfl

theorem LengthBound.divw (src des : Mode .word) :
    LengthBound.Statement (.divw src des) := length2 rfl

theorem LengthBound.sftb (src des : Mode .byte) :
    LengthBound.Statement (.sftb src des) := length2 rfl

theorem LengthBound.sfth (src : Mode .byte) (des : Mode .half) :
    LengthBound.Statement (.sfth src des) := length2 rfl

theorem LengthBound.sftw (src : Mode .byte) (des : Mode .word) :
    LengthBound.Statement (.sftw src des) := length2 rfl

theorem LengthBound.sfab (src des : Mode .byte) :
    LengthBound.Statement (.sfab src des) := length2 rfl

theorem LengthBound.sfah (src : Mode .byte) (des : Mode .half) :
    LengthBound.Statement (.sfah src des) := length2 rfl

theorem LengthBound.sfaw (src : Mode .byte) (des : Mode .word) :
    LengthBound.Statement (.sfaw src des) := length2 rfl

theorem LengthBound.rotb (src des : Mode .byte) :
    LengthBound.Statement (.rotb src des) := length2 rfl

theorem LengthBound.roth (src : Mode .byte) (des : Mode .half) :
    LengthBound.Statement (.roth src des) := length2 rfl

theorem LengthBound.rotw (src : Mode .byte) (des : Mode .word) :
    LengthBound.Statement (.rotw src des) := length2 rfl

theorem LengthBound.ffob (src des : Mode .byte) :
    LengthBound.Statement (.ffob src des) := length2 rfl

theorem LengthBound.ffoh (src : Mode .half) (des : Mode .byte) :
    LengthBound.Statement (.ffoh src des) := length2 rfl

theorem LengthBound.ffow (src : Mode .word) (des : Mode .byte) :
    LengthBound.Statement (.ffow src des) := length2 rfl

theorem LengthBound.andb (src des : Mode .byte) :
    LengthBound.Statement (.andb src des) := length2 rfl

theorem LengthBound.andh (src des : Mode .half) :
    LengthBound.Statement (.andh src des) := length2 rfl

theorem LengthBound.andw (src des : Mode .word) :
    LengthBound.Statement (.andw src des) := length2 rfl

theorem LengthBound.orb (src des : Mode .byte) :
    LengthBound.Statement (.orb src des) := length2 rfl

theorem LengthBound.orh (src des : Mode .half) :
    LengthBound.Statement (.orh src des) := length2 rfl

theorem LengthBound.orw (src des : Mode .word) :
    LengthBound.Statement (.orw src des) := length2 rfl

theorem LengthBound.xorb (src des : Mode .byte) :
    LengthBound.Statement (.xorb src des) := length2 rfl

theorem LengthBound.xorh (src des : Mode .half) :
    LengthBound.Statement (.xorh src des) := length2 rfl

theorem LengthBound.xorw (src des : Mode .word) :
    LengthBound.Statement (.xorw src des) := length2 rfl

theorem LengthBound.notb (src des : Mode .byte) :
    LengthBound.Statement (.notb src des) := length2 rfl

theorem LengthBound.noth (src des : Mode .half) :
    LengthBound.Statement (.noth src des) := length2 rfl

theorem LengthBound.notw (src des : Mode .word) :
    LengthBound.Statement (.notw src des) := length2 rfl

theorem LengthBound.bitb (src des : Mode .byte) :
    LengthBound.Statement (.bitb src des) := length2 rfl

theorem LengthBound.bith (src des : Mode .half) :
    LengthBound.Statement (.bith src des) := length2 rfl

theorem LengthBound.bitw (src des : Mode .word) :
    LengthBound.Statement (.bitw src des) := length2 rfl

theorem LengthBound.movb (src des : Mode .byte) :
    LengthBound.Statement (.movb src des) := length2 rfl

theorem LengthBound.movh (src des : Mode .half) :
    LengthBound.Statement (.movh src des) := length2 rfl

theorem LengthBound.movw (src des : Mode .word) :
    LengthBound.Statement (.movw src des) := length2 rfl

theorem LengthBound.movr (src des : Mode .real) :
    LengthBound.Statement (.movr src des) := length2 rfl

theorem LengthBound.cvbr (src : Mode .byte) (des : Mode .real) :
    LengthBound.Statement (.cvbr src des) := length2 rfl

theorem LengthBound.movl (src des : Mode .long) :
    LengthBound.Statement (.movl src des) := length2 rfl

theorem LengthBound.cvhr (src : Mode .half) (des : Mode .real) :
    LengthBound.Statement (.cvhr src des) := length2 rfl

theorem LengthBound.cvlr (src : Mode .long) (des : Mode .real) :
    LengthBound.Statement (.cvlr src des) := length2 rfl

theorem LengthBound.cvbl (src : Mode .byte) (des : Mode .long) :
    LengthBound.Statement (.cvbl src des) := length2 rfl

theorem LengthBound.cvhl (src : Mode .half) (des : Mode .long) :
    LengthBound.Statement (.cvhl src des) := length2 rfl

theorem LengthBound.cvwl (src : Mode .word) (des : Mode .long) :
    LengthBound.Statement (.cvwl src des) := length2 rfl

theorem LengthBound.cvrl (src : Mode .real) (des : Mode .long) :
    LengthBound.Statement (.cvrl src des) := length2 rfl

theorem LengthBound.cvbw (src : Mode .byte) (des : Mode .word) :
    LengthBound.Statement (.cvbw src des) := length2 rfl

theorem LengthBound.cvhw (src : Mode .half) (des : Mode .word) :
    LengthBound.Statement (.cvhw src des) := length2 rfl

theorem LengthBound.cvwb (src : Mode .word) (des : Mode .byte) :
    LengthBound.Statement (.cvwb src des) := length2 rfl

theorem LengthBound.cvwh (src : Mode .word) (des : Mode .half) :
    LengthBound.Statement (.cvwh src des) := length2 rfl

theorem LengthBound.mova (src : Mode .address) (des : Mode .word) :
    LengthBound.Statement (.mova src des) := length2 rfl

theorem LengthBound.negr (src des : Mode .real) :
    LengthBound.Statement (.negr src des) := length2 rfl

theorem LengthBound.negl (src des : Mode .long) :
    LengthBound.Statement (.negl src des) := length2 rfl

theorem LengthBound.sbrr (src des : Mode .real) :
    LengthBound.Statement (.sbrr src des) := length2 rfl

theorem LengthBound.sbrl (src des : Mode .long) :
    LengthBound.Statement (.sbrl src des) := length2 rfl

theorem LengthBound.cmpr (src des : Mode .real) :
    LengthBound.Statement (.cmpr src des) := length2 rfl

theorem LengthBound.cmpl (src des : Mode .long) :
    LengthBound.Statement (.cmpl src des) := length2 rfl

theorem LengthBound.addr (src des : Mode .real) :
    LengthBound.Statement (.addr src des) := length2 rfl

theorem LengthBound.addl (src des : Mode .long) :
    LengthBound.Statement (.addl src des) := length2 rfl

theorem LengthBound.sqtr (src des : Mode .real) :
    LengthBound.Statement (.sqtr src des) := length2 rfl

theorem LengthBound.sqtl (src des : Mode .long) :
    LengthBound.Statement (.sqtl src des) := length2 rfl

theorem LengthBound.subr (src des : Mode .real) :
    LengthBound.Statement (.subr src des) := length2 rfl

theorem LengthBound.subl (src des : Mode .long) :
    LengthBound.Statement (.subl src des) := length2 rfl

theorem LengthBound.sgnr (src des : Mode .real) :
    LengthBound.Statement (.sgnr src des) := length2 rfl

theorem LengthBound.sgnl (src des : Mode .long) :
    LengthBound.Statement (.sgnl src des) := length2 rfl

theorem LengthBound.mulr (src des : Mode .real) :
    LengthBound.Statement (.mulr src des) := length2 rfl

theorem LengthBound.mull (src des : Mode .long) :
    LengthBound.Statement (.mull src des) := length2 rfl

theorem LengthBound.dvrr (src des : Mode .real) :
    LengthBound.Statement (.dvrr src des) := length2 rfl

theorem LengthBound.dvrl (src des : Mode .long) :
    LengthBound.Statement (.dvrl src des) := length2 rfl

theorem LengthBound.remr (src des : Mode .real) :
    LengthBound.Statement (.remr src des) := length2 rfl

theorem LengthBound.reml (src des : Mode .long) :
    LengthBound.Statement (.reml src des) := length2 rfl

theorem LengthBound.divr (src des : Mode .real) :
    LengthBound.Statement (.divr src des) := length2 rfl

theorem LengthBound.divl (src des : Mode .long) :
    LengthBound.Statement (.divl src des) := length2 rfl

theorem LengthBound.bg (src : Mode .address) : LengthBound.Statement (.bg src) := length1 rfl

theorem LengthBound.rep (src : Mode .address) : LengthBound.Statement (.rep src) := length1 rfl

theorem LengthBound.ble (src : Mode .address) : LengthBound.Statement (.ble src) := length1 rfl

theorem LengthBound.repz (src : Mode .address) : LengthBound.Statement (.repz src) := length1 rfl

theorem LengthBound.bgu (src : Mode .address) : LengthBound.Statement (.bgu src) := length1 rfl

theorem LengthBound.repnz (src : Mode .address) : LengthBound.Statement (.repnz src) := length1 rfl

theorem LengthBound.bleu (src : Mode .address) : LengthBound.Statement (.bleu src) := length1 rfl

theorem LengthBound.bge (src : Mode .address) : LengthBound.Statement (.bge src) := length1 rfl

theorem LengthBound.bl (src : Mode .address) : LengthBound.Statement (.bl src) := length1 rfl

theorem LengthBound.bgeu (src : Mode .address) : LengthBound.Statement (.bgeu src) := length1 rfl

theorem LengthBound.blu (src : Mode .address) : LengthBound.Statement (.blu src) := length1 rfl

theorem LengthBound.bne (src : Mode .address) : LengthBound.Statement (.bne src) := length1 rfl

theorem LengthBound.be (src : Mode .address) : LengthBound.Statement (.be src) := length1 rfl

theorem LengthBound.bnv (src : Mode .address) : LengthBound.Statement (.bnv src) := length1 rfl

theorem LengthBound.bv (src : Mode .address) : LengthBound.Statement (.bv src) := length1 rfl

theorem LengthBound.call (src : Mode .address) : LengthBound.Statement (.call src) := length1 rfl

theorem LengthBound.jmp (src : Mode .address) : LengthBound.Statement (.jmp src) := length1 rfl

theorem LengthBound.ret : LengthBound.Statement .ret := length0 rfl

theorem LengthBound.retp (src : Mode .word) : LengthBound.Statement (.retp src) := length1 rfl

theorem LengthBound.nop : LengthBound.Statement .nop := length0 rfl

theorem LengthBound.clc : LengthBound.Statement .clc := length0 rfl

theorem LengthBound.stc : LengthBound.Statement .stc := length0 rfl

theorem LengthBound.cmc : LengthBound.Statement .cmc := length0 rfl

theorem LengthBound.eron : LengthBound.Statement .eron := length0 rfl

theorem LengthBound.trap (src : Mode .byte) : LengthBound.Statement (.trap src) := length1 rfl

theorem LengthBound.erof : LengthBound.Statement .erof := length0 rfl

theorem LengthBound.bkpt : LengthBound.Statement .bkpt := length0 rfl

theorem LengthBound.rset : LengthBound.Statement .rset := length0 rfl

theorem LengthBound.ldpr (src : Mode .word) (des : Mode .byte) :
    LengthBound.Statement (.ldpr src des) := length2 rfl

theorem LengthBound.ei : LengthBound.Statement .ei := length0 rfl

theorem LengthBound.stpr (src : Mode .byte) (des : Mode .word) :
    LengthBound.Statement (.stpr src des) := length2 rfl

theorem LengthBound.di : LengthBound.Statement .di := length0 rfl

theorem LengthBound.wait : LengthBound.Statement .wait := length0 rfl

theorem LengthBound.reti : LengthBound.Statement .reti := length0 rfl

theorem LengthBound.rett : LengthBound.Statement .rett := length0 rfl

theorem LengthBound.lcnt (src : Mode .word) (des : Mode .byte) :
    LengthBound.Statement (.lcnt src des) := length2 rfl

theorem LengthBound.lptr (src : Mode .word) (des : Mode .byte) :
    LengthBound.Statement (.lptr src des) := length2 rfl

theorem LengthBound.bcnt (src des : Mode .word) :
    LengthBound.Statement (.bcnt src des) := length2 rfl

theorem LengthBound.bptr (src des : Mode .word) :
    LengthBound.Statement (.bptr src des) := length2 rfl

theorem LengthBound.res (op : Byte) : LengthBound.Statement (.res op) := length0 rfl

theorem LengthBound.esc (op : Byte) : LengthBound.Statement (.esc op) := length0 rfl

end Laws

end Sys2Proof
end

