-- ==== Sys2Proof/Tests/Slice0.lean ====
section
/-! SUPPORT. Tests: ill-formed terms are refused; words written out from the tables of 30 R94 and R98 decode
to their instructions; one step of each instruction on the worked examples and vectors of spec/95 or on values worked
out by hand from its rule; and a witness for the hypotheses of each statement. -/

namespace Sys2Proof.Tests

open Sys2Proof Sys2Proof.Machine

-- The tests are elaborated one after another, so that they need little memory.
set_option Elab.async false

/-! ### Well-formedness: a term for each check, which the check refuses (30 R96, R97, R98, R114) -/

/-- A mode byte that R98 defines is not a reserved one. -/
theorem test_reserved_field_needs_reserved_byte :
    (Instr.movb (.reserved 0xC0) (.register 0)).wellFormed = false := by decide

/-- No encoding has a truncated field. -/
theorem test_truncated_field_is_ill_formed :
    (Instr.movb (.register 0) (.truncated none)).wellFormed = false ∧
    (Instr.jmp (.truncated (some 0xF9))).wellFormed = false := by decide

/-- RES carries an opcode byte that the map marks RES. -/
theorem test_res_needs_a_reserved_opcode :
    (Instr.res 0x44).wellFormed = false ∧ (Instr.res 0xF1).wellFormed = false := by decide

/-- ESC carries an opcode byte that the map marks ESC. -/
theorem test_esc_needs_an_escape_opcode :
    (Instr.esc 0x06).wellFormed = false ∧ (Instr.esc 0x44).wellFormed = false := by decide

/-- A literal destination and a reserved mode byte are encodings: Operand Error is the processor's (30 R114). -/
theorem test_illegal_fields_are_well_formed :
    (Instr.movb (.register 0) (.literal 1)).wellFormed = true ∧
    (Instr.movb (.reserved 0xE0) (.register 0)).wellFormed = true ∧
    (Instr.res 0x06).wellFormed = true ∧ (Instr.esc 0xFF).wellFormed = true := by decide

/-! ### Decoding: the opcode byte of each rule's head line, with Register Direct fields C1, C2 (30 R94, R98) -/

/-- Decoding gives exactly this instruction and leaves no byte. -/
def reads (bs : List Byte) (i : Instr) : Bool :=
  match decode bs with
  | .ok (j, rest) => decide (j = i) && rest.isEmpty
  | _ => false

theorem test_decode_1 : (
    reads [0x10#8, 0xC1#8, 0xC2#8] (.negb (.register 1) (.register 2)) &&
    reads [0x12#8, 0xC1#8, 0xC2#8] (.negh (.register 1) (.register 2)) &&
    reads [0x14#8, 0xC1#8, 0xC2#8] (.negw (.register 1) (.register 2)) &&
    reads [0x20#8, 0xC1#8, 0xC2#8] (.sbrb (.register 1) (.register 2)) &&
    reads [0x22#8, 0xC1#8, 0xC2#8] (.sbrh (.register 1) (.register 2)) &&
    reads [0x24#8, 0xC1#8, 0xC2#8] (.sbrw (.register 1) (.register 2)) &&
    reads [0x30#8, 0xC1#8, 0xC2#8] (.cmpb (.register 1) (.register 2)) &&
    reads [0x32#8, 0xC1#8, 0xC2#8] (.cmph (.register 1) (.register 2)) &&
    reads [0x34#8, 0xC1#8, 0xC2#8] (.cmpw (.register 1) (.register 2)) &&
    reads [0x40#8, 0xC1#8, 0xC2#8] (.addb (.register 1) (.register 2)) &&
    reads [0x42#8, 0xC1#8, 0xC2#8] (.addh (.register 1) (.register 2)) &&
    reads [0x44#8, 0xC1#8, 0xC2#8] (.addw (.register 1) (.register 2)) &&
    reads [0x50#8, 0xC1#8, 0xC2#8] (.adcb (.register 1) (.register 2)) &&
    reads [0x52#8, 0xC1#8, 0xC2#8] (.adch (.register 1) (.register 2)) &&
    reads [0x54#8, 0xC1#8, 0xC2#8] (.adcw (.register 1) (.register 2)) &&
    reads [0x60#8, 0xC1#8, 0xC2#8] (.subb (.register 1) (.register 2)) &&
    reads [0x62#8, 0xC1#8, 0xC2#8] (.subh (.register 1) (.register 2)) &&
    reads [0x64#8, 0xC1#8, 0xC2#8] (.subw (.register 1) (.register 2)) &&
    reads [0x70#8, 0xC1#8, 0xC2#8] (.sbbb (.register 1) (.register 2)) &&
    reads [0x72#8, 0xC1#8, 0xC2#8] (.sbbh (.register 1) (.register 2)) &&
    reads [0x74#8, 0xC1#8, 0xC2#8] (.sbbw (.register 1) (.register 2)) &&
    reads [0x80#8, 0xC1#8, 0xC2#8] (.mulb (.register 1) (.register 2)) &&
    reads [0x81#8, 0xC1#8, 0xC2#8] (.adcd (.register 1) (.register 2)) &&
    reads [0x82#8, 0xC1#8, 0xC2#8] (.mulh (.register 1) (.register 2))) = true := by decide +kernel

theorem test_decode_2 : (
    reads [0x84#8, 0xC1#8, 0xC2#8] (.mulw (.register 1) (.register 2)) &&
    reads [0x90#8, 0xC1#8, 0xC2#8] (.dvrb (.register 1) (.register 2)) &&
    reads [0x91#8, 0xC1#8, 0xC2#8] (.sbbd (.register 1) (.register 2)) &&
    reads [0x92#8, 0xC1#8, 0xC2#8] (.dvrh (.register 1) (.register 2)) &&
    reads [0x94#8, 0xC1#8, 0xC2#8] (.dvrw (.register 1) (.register 2)) &&
    reads [0xA0#8, 0xC1#8, 0xC2#8] (.remb (.register 1) (.register 2)) &&
    reads [0xA2#8, 0xC1#8, 0xC2#8] (.remh (.register 1) (.register 2)) &&
    reads [0xA4#8, 0xC1#8, 0xC2#8] (.remw (.register 1) (.register 2)) &&
    reads [0xB0#8, 0xC1#8, 0xC2#8] (.divb (.register 1) (.register 2)) &&
    reads [0xB2#8, 0xC1#8, 0xC2#8] (.divh (.register 1) (.register 2)) &&
    reads [0xB4#8, 0xC1#8, 0xC2#8] (.divw (.register 1) (.register 2))) = true := by decide +kernel

theorem test_decode_3 : (
    reads [0x01#8, 0xC1#8, 0xC2#8] (.sftb (.register 1) (.register 2)) &&
    reads [0x03#8, 0xC1#8, 0xC2#8] (.sfth (.register 1) (.register 2)) &&
    reads [0x05#8, 0xC1#8, 0xC2#8] (.sftw (.register 1) (.register 2)) &&
    reads [0x11#8, 0xC1#8, 0xC2#8] (.sfab (.register 1) (.register 2)) &&
    reads [0x13#8, 0xC1#8, 0xC2#8] (.sfah (.register 1) (.register 2)) &&
    reads [0x15#8, 0xC1#8, 0xC2#8] (.sfaw (.register 1) (.register 2)) &&
    reads [0x21#8, 0xC1#8, 0xC2#8] (.rotb (.register 1) (.register 2)) &&
    reads [0x23#8, 0xC1#8, 0xC2#8] (.roth (.register 1) (.register 2)) &&
    reads [0x25#8, 0xC1#8, 0xC2#8] (.rotw (.register 1) (.register 2)) &&
    reads [0x31#8, 0xC1#8, 0xC2#8] (.ffob (.register 1) (.register 2)) &&
    reads [0x33#8, 0xC1#8, 0xC2#8] (.ffoh (.register 1) (.register 2)) &&
    reads [0x35#8, 0xC1#8, 0xC2#8] (.ffow (.register 1) (.register 2)) &&
    reads [0x41#8, 0xC1#8, 0xC2#8] (.andb (.register 1) (.register 2)) &&
    reads [0x43#8, 0xC1#8, 0xC2#8] (.andh (.register 1) (.register 2)) &&
    reads [0x45#8, 0xC1#8, 0xC2#8] (.andw (.register 1) (.register 2)) &&
    reads [0x51#8, 0xC1#8, 0xC2#8] (.orb (.register 1) (.register 2)) &&
    reads [0x53#8, 0xC1#8, 0xC2#8] (.orh (.register 1) (.register 2)) &&
    reads [0x55#8, 0xC1#8, 0xC2#8] (.orw (.register 1) (.register 2)) &&
    reads [0x61#8, 0xC1#8, 0xC2#8] (.xorb (.register 1) (.register 2)) &&
    reads [0x63#8, 0xC1#8, 0xC2#8] (.xorh (.register 1) (.register 2)) &&
    reads [0x65#8, 0xC1#8, 0xC2#8] (.xorw (.register 1) (.register 2)) &&
    reads [0x71#8, 0xC1#8, 0xC2#8] (.notb (.register 1) (.register 2)) &&
    reads [0x73#8, 0xC1#8, 0xC2#8] (.noth (.register 1) (.register 2)) &&
    reads [0x75#8, 0xC1#8, 0xC2#8] (.notw (.register 1) (.register 2))) = true := by decide +kernel

theorem test_decode_4 : (
    reads [0xC0#8, 0xC1#8, 0xC2#8] (.bitb (.register 1) (.register 2)) &&
    reads [0xC2#8, 0xC1#8, 0xC2#8] (.bith (.register 1) (.register 2)) &&
    reads [0xC4#8, 0xC1#8, 0xC2#8] (.bitw (.register 1) (.register 2))) = true := by decide +kernel

theorem test_decode_5 : (
    reads [0x00#8, 0xC1#8, 0xC2#8] (.movb (.register 1) (.register 2)) &&
    reads [0x02#8, 0xC1#8, 0xC2#8] (.movh (.register 1) (.register 2)) &&
    reads [0x04#8, 0xC1#8, 0xC2#8] (.movw (.register 1) (.register 2)) &&
    reads [0x08#8, 0xC1#8, 0xC2#8] (.movr (.register 1) (.register 2)) &&
    reads [0x09#8, 0xC1#8, 0xC2#8] (.cvbr (.register 1) (.register 2)) &&
    reads [0x0A#8, 0xC1#8, 0xC2#8] (.movl (.register 1) (.register 2)) &&
    reads [0x19#8, 0xC1#8, 0xC2#8] (.cvhr (.register 1) (.register 2)) &&
    reads [0x39#8, 0xC1#8, 0xC2#8] (.cvlr (.register 1) (.register 2)) &&
    reads [0x49#8, 0xC1#8, 0xC2#8] (.cvbl (.register 1) (.register 2)) &&
    reads [0x59#8, 0xC1#8, 0xC2#8] (.cvhl (.register 1) (.register 2)) &&
    reads [0x69#8, 0xC1#8, 0xC2#8] (.cvwl (.register 1) (.register 2)) &&
    reads [0x79#8, 0xC1#8, 0xC2#8] (.cvrl (.register 1) (.register 2)) &&
    reads [0x89#8, 0xC1#8, 0xC2#8] (.cvbw (.register 1) (.register 2)) &&
    reads [0x99#8, 0xC1#8, 0xC2#8] (.cvhw (.register 1) (.register 2)) &&
    reads [0xA9#8, 0xC1#8, 0xC2#8] (.cvwb (.register 1) (.register 2)) &&
    reads [0xB9#8, 0xC1#8, 0xC2#8] (.cvwh (.register 1) (.register 2)) &&
    reads [0xE5#8, 0xC1#8, 0xC2#8] (.mova (.register 1) (.register 2))) = true := by decide +kernel

theorem test_decode_6 : (
    reads [0x18#8, 0xC1#8, 0xC2#8] (.negr (.register 1) (.register 2)) &&
    reads [0x1A#8, 0xC1#8, 0xC2#8] (.negl (.register 1) (.register 2)) &&
    reads [0x28#8, 0xC1#8, 0xC2#8] (.sbrr (.register 1) (.register 2)) &&
    reads [0x2A#8, 0xC1#8, 0xC2#8] (.sbrl (.register 1) (.register 2)) &&
    reads [0x38#8, 0xC1#8, 0xC2#8] (.cmpr (.register 1) (.register 2)) &&
    reads [0x3A#8, 0xC1#8, 0xC2#8] (.cmpl (.register 1) (.register 2)) &&
    reads [0x48#8, 0xC1#8, 0xC2#8] (.addr (.register 1) (.register 2)) &&
    reads [0x4A#8, 0xC1#8, 0xC2#8] (.addl (.register 1) (.register 2)) &&
    reads [0x58#8, 0xC1#8, 0xC2#8] (.sqtr (.register 1) (.register 2)) &&
    reads [0x5A#8, 0xC1#8, 0xC2#8] (.sqtl (.register 1) (.register 2)) &&
    reads [0x68#8, 0xC1#8, 0xC2#8] (.subr (.register 1) (.register 2)) &&
    reads [0x6A#8, 0xC1#8, 0xC2#8] (.subl (.register 1) (.register 2)) &&
    reads [0x78#8, 0xC1#8, 0xC2#8] (.sgnr (.register 1) (.register 2)) &&
    reads [0x7A#8, 0xC1#8, 0xC2#8] (.sgnl (.register 1) (.register 2)) &&
    reads [0x88#8, 0xC1#8, 0xC2#8] (.mulr (.register 1) (.register 2)) &&
    reads [0x8A#8, 0xC1#8, 0xC2#8] (.mull (.register 1) (.register 2)) &&
    reads [0x98#8, 0xC1#8, 0xC2#8] (.dvrr (.register 1) (.register 2)) &&
    reads [0x9A#8, 0xC1#8, 0xC2#8] (.dvrl (.register 1) (.register 2)) &&
    reads [0xA8#8, 0xC1#8, 0xC2#8] (.remr (.register 1) (.register 2)) &&
    reads [0xAA#8, 0xC1#8, 0xC2#8] (.reml (.register 1) (.register 2)) &&
    reads [0xB8#8, 0xC1#8, 0xC2#8] (.divr (.register 1) (.register 2)) &&
    reads [0xBA#8, 0xC1#8, 0xC2#8] (.divl (.register 1) (.register 2))) = true := by decide +kernel

theorem test_decode_7 : (
    reads [0x0F#8, 0xC1#8] (.bg (.register 1)) &&
    reads [0x1E#8, 0xC1#8] (.rep (.register 1)) &&
    reads [0x1F#8, 0xC1#8] (.ble (.register 1)) &&
    reads [0x2E#8, 0xC1#8] (.repz (.register 1)) &&
    reads [0x2F#8, 0xC1#8] (.bgu (.register 1)) &&
    reads [0x3E#8, 0xC1#8] (.repnz (.register 1)) &&
    reads [0x3F#8, 0xC1#8] (.bleu (.register 1)) &&
    reads [0x4F#8, 0xC1#8] (.bge (.register 1)) &&
    reads [0x5F#8, 0xC1#8] (.bl (.register 1)) &&
    reads [0x6F#8, 0xC1#8] (.bgeu (.register 1)) &&
    reads [0x7F#8, 0xC1#8] (.blu (.register 1)) &&
    reads [0x8F#8, 0xC1#8] (.bne (.register 1)) &&
    reads [0x9F#8, 0xC1#8] (.be (.register 1)) &&
    reads [0xAF#8, 0xC1#8] (.bnv (.register 1)) &&
    reads [0xBF#8, 0xC1#8] (.bv (.register 1)) &&
    reads [0xCF#8, 0xC1#8] (.call (.register 1)) &&
    reads [0xDF#8, 0xC1#8] (.jmp (.register 1)) &&
    reads [0xEB#8] .ret &&
    reads [0xEF#8, 0xC1#8] (.retp (.register 1))) = true := by decide +kernel

theorem test_decode_8 : (
    reads [0x0B#8] .nop &&
    reads [0x1B#8] .clc &&
    reads [0x2B#8] .stc &&
    reads [0x3B#8] .cmc &&
    reads [0x4B#8] .eron &&
    reads [0x4E#8, 0xC1#8] (.trap (.register 1)) &&
    reads [0x5B#8] .erof &&
    reads [0x6B#8] .bkpt &&
    reads [0x7B#8] .rset &&
    reads [0x85#8, 0xC1#8, 0xC2#8] (.ldpr (.register 1) (.register 2)) &&
    reads [0x8B#8] .ei &&
    reads [0x95#8, 0xC1#8, 0xC2#8] (.stpr (.register 1) (.register 2)) &&
    reads [0x9B#8] .di &&
    reads [0xAB#8] .wait &&
    reads [0xCB#8] .reti &&
    reads [0xDB#8] .rett) = true := by decide +kernel

theorem test_decode_9 : (
    reads [0xA5#8, 0xC1#8, 0xC2#8] (.lcnt (.register 1) (.register 2)) &&
    reads [0xB5#8, 0xC1#8, 0xC2#8] (.lptr (.register 1) (.register 2)) &&
    reads [0xC5#8, 0xC1#8, 0xC2#8] (.bcnt (.register 1) (.register 2)) &&
    reads [0xD5#8, 0xC1#8, 0xC2#8] (.bptr (.register 1) (.register 2))) = true := by decide +kernel

/-- RES and ESC bytes (30 R96, R97). -/
theorem test_decode_res_esc : (reads [0x06#8] (.res 0x06) && reads [0xDD#8] (.res 0xDD) &&
    reads [0xF1#8] (.esc 0xF1) && reads [0xFF#8] (.esc 0xFF)) = true := by decide +kernel

/-- Each mode byte of 30 R98 with its extra bytes, low-order byte first (30 R90, R115). -/
theorem test_decode_modes : (
    reads [0x04#8, 0x20#8, 0x5F#8] (.movw (.literal (-32)) (.autoskip 15)) &&
    reads [0x04#8, 0x4F#8, 0x63#8] (.movw (.regIndirect 15) (.autoinc 3)) &&
    reads [0x04#8, 0x72#8, 0xD1#8] (.movw (.autoincInd 2) (.autodec 1)) &&
    reads [0x04#8, 0x82#8, 0x80#8, 0x93#8, 0x34#8, 0x12#8] (.movw (.byteOffReg 2 0x80) (.halfOffReg 3 0x1234)) &&
    reads [0x04#8, 0xA4#8, 0x78#8, 0x56#8, 0x34#8, 0x12#8, 0xB5#8, 0x01#8, 0x00#8, 0x00#8, 0x80#8]
      (.movw (.wordOffReg 4 0x12345678) (.wordOffRegInd 5 0x80000001)) &&
    reads [0x04#8, 0xF0#8, 0x10#8, 0xF1#8, 0x34#8, 0x12#8] (.movw (.byteOffPc 0x10) (.halfOffPc 0x1234)) &&
    reads [0x04#8, 0xF2#8, 0x78#8, 0x56#8, 0x34#8, 0x12#8, 0xF3#8, 0x01#8, 0x00#8, 0x00#8, 0x80#8]
      (.movw (.wordOffPc 0x12345678) (.wordOffPcInd 0x80000001)) &&
    reads [0x04#8, 0xF4#8, 0x10#8, 0xF5#8, 0x34#8, 0x12#8] (.movw (.byteOffSp 0x10) (.halfOffSp 0x1234)) &&
    reads [0x04#8, 0xF6#8, 0x78#8, 0x56#8, 0x34#8, 0x12#8, 0xF7#8, 0x01#8, 0x00#8, 0x00#8, 0x80#8]
      (.movw (.wordOffSp 0x12345678) (.wordOffSpInd 0x80000001)) &&
    reads [0x04#8, 0xF8#8, 0x10#8, 0xF9#8, 0x34#8, 0x12#8] (.movw (.byteDirect 0x10) (.halfDirect 0x1234)) &&
    reads [0x04#8, 0xFA#8, 0x78#8, 0x56#8, 0x34#8, 0x12#8, 0xFB#8, 0x01#8, 0x00#8, 0x00#8, 0x80#8]
      (.movw (.wordDirect 0x12345678) (.wordIndirect 0x80000001)) &&
    reads [0x00#8, 0xFD#8, 0x7F#8, 0xFC#8] (.movb (.immediate 0x7F) .stk) &&
    reads [0x02#8, 0xFD#8, 0x34#8, 0x12#8, 0xFC#8] (.movh (.immediate 0x1234) .stk) &&
    reads [0x0A#8, 0xFD#8, 0x00#8, 0x00#8, 0x00#8, 0x00#8, 0x00#8, 0x00#8, 0xF0#8, 0x3F#8, 0xC2#8]
      (.movl (.immediate 0x3FF0000000000000) (.register 2)) &&
    reads [0x04#8, 0xE5#8, 0xFF#8] (.movw (.reserved 0xE5) (.reserved 0xFF)) &&
    reads [0x04#8, 0xFE#8, 0xC0#8] (.movw (.reserved 0xFE) (.register 0))) = true := by decide +kernel

/-- The longest instruction has 19 bytes. -/
theorem test_longest_instruction :
    (Instr.cmpl (.immediate 0) (.immediate 0)).length = maxInstrBytes := by decide +kernel

/-! ### One step of each instruction -/

/-- A node as spec/95 takes it: the ROM left, memory zero but for what is given, nothing pending. -/
def start (pc sp ps : Word) (regs : List (Reg × Word)) (mem : List (Nat × List Byte)) (code : List Byte) : State :=
  { State.resetNode false with
    regs := regs.foldl (fun v r => v.set r.1 r.2) (Vector.replicate 16 0)
    pc := pc
    sp := sp
    ps := ps
    romActive := false
    mem := ((pc.toNat, code) :: mem).foldl (fun m r => storeBytes m r.1 r.2) [] }

/-- One step leads to these registers, bytes, SP, PS and PC. -/
def ends (s : State) (regs : List (Reg × Word)) (mem : List (Nat × List Byte)) (sp ps pc : Word) : Bool :=
  match step s with
  | .next t =>
    regs.all (fun r => t.regs.get r.1 == r.2) && mem.all (fun r => codeBytes t.mem r.1 r.2.length == r.2)
      && t.sp == sp && t.ps == ps && t.pc == pc && !t.stuck
  | _ => false

theorem test_subw_1 :
    ends (start 0x400 0x8000 0x0 [] [(0x900, [0x05, 0x00, 0x00, 0x00]), (0x904, [0x03, 0x00, 0x00, 0x00])] [0x64, 0xF9, 0x00, 0x09, 0xF9, 0x04, 0x09])
      [] [(0x904, [0xFE, 0xFF, 0xFF, 0xFF])] 0x8000 0x9 0x407 = true := by
  decide +kernel

theorem test_addw_1 :
    ends (start 0x400 0x7FF0 0x0 [(0, 0x64)] [(0x7FF0, [0x03, 0x00, 0x00, 0x00])] [0x44, 0xFC, 0xC0])
      [(0, 0x67)] [] 0x7FF4 0x0 0x403 = true := by
  decide +kernel

theorem test_movh_1 :
    ends (start 0x400 0x7FF0 0x0 [] [(0x7FF0, [0x03, 0x00, 0x00, 0x00])] [0x02, 0xFC, 0xF9, 0x00, 0x09])
      [] [(0x900, [0x03, 0x00])] 0x7FF2 0x0 0x405 = true := by
  decide +kernel

theorem test_addw_2 :
    ends (start 0x400 0x7FF0 0x0 [(0, 0x64)] [(0x7FF0, [0x03, 0x00, 0x00, 0x00])] [0x44, 0xC0, 0xFC])
      [] [(0x7FF0, [0x67, 0x00, 0x00, 0x00])] 0x7FF0 0x0 0x403 = true := by
  decide +kernel

theorem test_movw_1 :
    ends (start 0x400 0x7FF0 0x0 [(0, 0x64)] [] [0x04, 0xC0, 0xFC])
      [] [(0x7FEC, [0x64, 0x00, 0x00, 0x00])] 0x7FEC 0x0 0x403 = true := by
  decide +kernel

theorem test_subw_2 :
    ends (start 0x400 0x7FF0 0x0 [] [(0x7FF0, [0x03, 0x00, 0x00, 0x00]), (0x7FF4, [0x0A, 0x00, 0x00, 0x00])] [0x64, 0xFC, 0xFC])
      [] [(0x7FF4, [0x07, 0x00, 0x00, 0x00])] 0x7FF4 0x0 0x403 = true := by
  decide +kernel

theorem test_divw_1 :
    ends (start 0x400 0x7FF0 0x0 [] [(0x7FF0, [0x03, 0x00, 0x00, 0x00]), (0x7FF4, [0x0A, 0x00, 0x00, 0x00])] [0xB4, 0xFC, 0xFC])
      [] [(0x7FF4, [0x03, 0x00, 0x00, 0x00])] 0x7FF4 0x0 0x403 = true := by
  decide +kernel

theorem test_cmpw_1 :
    ends (start 0x400 0x7FF0 0x0 [] [(0x7FF0, [0x03, 0x00, 0x00, 0x00]), (0x7FF4, [0x0A, 0x00, 0x00, 0x00])] [0x34, 0xFC, 0xFC])
      [] [] 0x7FF8 0x9 0x403 = true := by
  decide +kernel

theorem test_negw_1 :
    ends (start 0x400 0x7FF0 0x0 [] [(0x7FF0, [0x03, 0x00, 0x00, 0x00])] [0x14, 0xFC, 0xFC])
      [] [(0x7FF0, [0xFD, 0xFF, 0xFF, 0xFF])] 0x7FF0 0x9 0x403 = true := by
  decide +kernel

theorem test_movw_2 :
    ends (start 0x400 0x7FF0 0x0 [] [(0x7FF0, [0x03, 0x00, 0x00, 0x00])] [0x04, 0xFC, 0xFC])
      [] [(0x7FF0, [0x03, 0x00, 0x00, 0x00])] 0x7FF0 0x0 0x403 = true := by
  decide +kernel

theorem test_ffow_1 :
    ends (start 0x400 0x7FF0 0x0 [] [(0x7FF0, [0x50, 0x00, 0x00, 0x00])] [0x35, 0xFC, 0xFC])
      [] [(0x7FF3, [0x04])] 0x7FF3 0x0 0x403 = true := by
  decide +kernel

theorem test_addb_1 :
    ends (start 0x400 0x8000 0x0 [] [] [0x40, 0xFD, 0x7F, 0xC0])
      [(0, 0x7F)] [] 0x8000 0x0 0x404 = true := by
  decide +kernel

theorem test_ffow_2 :
    ends (start 0x400 0x8000 0x0 [(0, 0x1)] [] [0x35, 0xC0, 0xC1])
      [(1, 0x0)] [] 0x8000 0x0 0x403 = true := by
  decide +kernel

theorem test_trap_1 :
    ends (start 0x400 0x8000 0x0 [] [(0x18, [0x00, 0x07, 0x00, 0x00])] [0x4E, 0x03])
      [] [(0x7FFC, [0x00, 0x00, 0x00, 0x00]), (0x7FF8, [0x02, 0x04, 0x00, 0x00])] 0x7FF8 0x0 0x700 = true := by
  decide +kernel

theorem test_addb_2 :
    ends (start 0x400 0x8000 0x0 [] [(0x900, [0x80, 0x80])] [0x40, 0xF9, 0x00, 0x09, 0xF9, 0x01, 0x09])
      [] [(0x901, [0x00])] 0x8000 0xF 0x407 = true := by
  decide +kernel

theorem test_mulw_1 :
    ends (start 0x400 0x8000 0x0 [(0, 0x10000), (1, 0x10000)] [] [0x84, 0xC0, 0xC1])
      [(1, 0x0)] [] 0x8000 0x6 0x403 = true := by
  decide +kernel

theorem test_divw_2 :
    ends (start 0x400 0x8000 0x0 [(0, 0x80000000)] [] [0xB4, 0x3F, 0xC0])
      [(0, 0x80000000)] [] 0x8000 0x2 0x403 = true := by
  decide +kernel

theorem test_divb_1 :
    ends (start 0x400 0x8000 0x0 [(0, 0xFFFFFF80), (1, 0xFFFFFFFF)] [] [0xB0, 0xC1, 0xC0])
      [(0, 0xFFFFFF80)] [] 0x8000 0x2 0x403 = true := by
  decide +kernel

theorem test_movb_1 :
    ends (start 0x400 0x8000 0x0 [] [] [0x00, 0xFD, 0x80, 0xC0])
      [(0, 0xFFFFFF80)] [] 0x8000 0x0 0x404 = true := by
  decide +kernel

theorem test_movh_2 :
    ends (start 0x400 0x8000 0x0 [] [] [0x02, 0xFD, 0x34, 0x12, 0xC0])
      [(0, 0x1234)] [] 0x8000 0x0 0x405 = true := by
  decide +kernel

theorem test_movl_1 :
    ends (start 0x400 0x8000 0x0 [] [] [0x0A, 0xFD, 0x00, 0x00, 0x00, 0x00, 0x00, 0x00, 0xF0, 0x3F, 0xC2])
      [(2, 0x0), (3, 0x3FF00000)] [] 0x8000 0x0 0x40B = true := by
  decide +kernel

theorem test_movb_2 :
    ends (start 0x400 0x8000 0x0 [(1, 0x123456F0)] [] [0x00, 0xC1, 0xC1])
      [(1, 0xFFFFFFF0)] [] 0x8000 0x0 0x403 = true := by
  decide +kernel

theorem test_adcw_1 :
    ends (start 0x400 0x8000 0x1 [(0, 0xFFFFFFFF)] [] [0x54, 0x00, 0xC0])
      [(0, 0x0)] [] 0x8000 0x5 0x403 = true := by
  decide +kernel

theorem test_sbbw_1 :
    ends (start 0x400 0x8000 0x1 [] [] [0x74, 0xC1, 0xC0])
      [(0, 0xFFFFFFFF)] [] 0x8000 0x9 0x403 = true := by
  decide +kernel

theorem test_sbrw_1 :
    ends (start 0x400 0x8000 0x0 [(0, 0x3)] [] [0x24, 0x0A, 0xC0])
      [(0, 0x7)] [] 0x8000 0x0 0x403 = true := by
  decide +kernel

theorem test_negw_2 :
    ends (start 0x400 0x8000 0x0 [(0, 0x5)] [] [0x14, 0xC0, 0xC1])
      [(1, 0xFFFFFFFB)] [] 0x8000 0x9 0x403 = true := by
  decide +kernel

theorem test_cmpw_2 :
    ends (start 0x400 0x8000 0x0 [(0, 0x80000000), (1, 0x1)] [] [0x34, 0xC0, 0xC1])
      [] [] 0x8000 0x8 0x403 = true := by
  decide +kernel

theorem test_cmpb_1 :
    ends (start 0x400 0x8000 0x0 [(0, 0xFFFFFF80), (1, 0x1)] [] [0x30, 0xC0, 0xC1])
      [] [] 0x8000 0x8 0x403 = true := by
  decide +kernel

theorem test_mulw_2 :
    ends (start 0x400 0x8000 0x0 [(0, 0xFFFFFFFD), (1, 0x7)] [] [0x84, 0xC0, 0xC1])
      [(1, 0xFFFFFFEB)] [] 0x8000 0x8 0x403 = true := by
  decide +kernel

theorem test_mulh_1 :
    ends (start 0x400 0x8000 0x0 [(0, 0x12C), (1, 0x12C)] [] [0x82, 0xC0, 0xC1])
      [(1, 0x5F90)] [] 0x8000 0x2 0x403 = true := by
  decide +kernel

theorem test_mulb_1 :
    ends (start 0x400 0x8000 0x0 [(0, 0x10), (1, 0x10)] [] [0x80, 0xC0, 0xC1])
      [(1, 0x0)] [] 0x8000 0x6 0x403 = true := by
  decide +kernel

theorem test_dvrw_1 :
    ends (start 0x400 0x8000 0x0 [(0, 0x7)] [] [0x94, 0xFD, 0x64, 0x00, 0x00, 0x00, 0xC0])
      [(0, 0xE)] [] 0x8000 0x0 0x407 = true := by
  decide +kernel

theorem test_remw_1 :
    ends (start 0x400 0x8000 0x0 [(0, 0xFFFFFFF9), (1, 0x2)] [] [0xA4, 0xC1, 0xC0])
      [(0, 0xFFFFFFFF)] [] 0x8000 0x8 0x403 = true := by
  decide +kernel

theorem test_remw_2 :
    ends (start 0x400 0x8000 0x0 [(0, 0x7), (1, 0xFFFFFFFE)] [] [0xA4, 0xC1, 0xC0])
      [(0, 0x1)] [] 0x8000 0x0 0x403 = true := by
  decide +kernel

theorem test_adcd_1 :
    ends (start 0x400 0x8000 0x0 [(0, 0x78), (1, 0x45)] [] [0x81, 0xC1, 0xC0])
      [(0, 0x23)] [] 0x8000 0x1 0x403 = true := by
  decide +kernel

theorem test_adcd_2 :
    ends (start 0x400 0x8000 0x1 [(0, 0x99)] [] [0x81, 0xC1, 0xC0])
      [(0, 0x0)] [] 0x8000 0x5 0x403 = true := by
  decide +kernel

theorem test_sbbd_1 :
    ends (start 0x400 0x8000 0x0 [(0, 0x23), (1, 0x45)] [] [0x91, 0xC1, 0xC0])
      [(0, 0x78)] [] 0x8000 0x1 0x403 = true := by
  decide +kernel

theorem test_andw_1 :
    ends (start 0x400 0x8000 0x3 [(0, 0x12345678)] [] [0x45, 0xFD, 0x00, 0xFF, 0x00, 0x00, 0xC0])
      [(0, 0x5600)] [] 0x8000 0x1 0x407 = true := by
  decide +kernel

theorem test_orb_1 :
    ends (start 0x400 0x8000 0x0 [(0, 0x1)] [] [0x51, 0xFD, 0x80, 0xC0])
      [(0, 0xFFFFFF81)] [] 0x8000 0x8 0x404 = true := by
  decide +kernel

theorem test_xorw_1 :
    ends (start 0x400 0x8000 0xB [(0, 0x1234)] [] [0x65, 0xC0, 0xC0])
      [(0, 0x0)] [] 0x8000 0x5 0x403 = true := by
  decide +kernel

theorem test_noth_1 :
    ends (start 0x400 0x8000 0x0 [(0, 0xFF)] [] [0x73, 0xC0, 0xC1])
      [(1, 0xFFFFFF00)] [] 0x8000 0x8 0x403 = true := by
  decide +kernel

theorem test_bitw_1 :
    ends (start 0x400 0x8000 0x1 [(0, 0x8), (2, 0x800003F7)] [] [0xC4, 0xC2, 0xC0])
      [] [] 0x8000 0x5 0x403 = true := by
  decide +kernel

theorem test_bith_1 :
    ends (start 0x400 0x8000 0x0 [] [] [0xC2, 0x3F, 0xF8, 0x00])
      [] [] 0x8000 0x4 0x404 = true := by
  decide +kernel

theorem test_bith_2 :
    ends (start 0x400 0x8000 0x0 [] [(0x0, [0x00, 0x01])] [0xC2, 0x3F, 0xF8, 0x00])
      [] [] 0x8000 0x0 0x404 = true := by
  decide +kernel

theorem test_sftw_1 :
    ends (start 0x400 0x8000 0x0 [(0, 0x6)] [] [0x05, 0x3F, 0xC0])
      [(0, 0x3)] [] 0x8000 0x0 0x403 = true := by
  decide +kernel

theorem test_sftw_2 :
    ends (start 0x400 0x8000 0x0 [(0, 0x3)] [] [0x05, 0x1F, 0xC0])
      [(0, 0x80000000)] [] 0x8000 0x9 0x403 = true := by
  decide +kernel

theorem test_sftb_1 :
    ends (start 0x400 0x8000 0x0 [(0, 0xFFFFFF80)] [] [0x01, 0x38, 0xC0])
      [(0, 0x0)] [] 0x8000 0x5 0x403 = true := by
  decide +kernel

theorem test_sfab_1 :
    ends (start 0x400 0x8000 0x0 [(0, 0x40)] [] [0x11, 0x01, 0xC0])
      [(0, 0xFFFFFF80)] [] 0x8000 0x2 0x403 = true := by
  decide +kernel

theorem test_sfaw_1 :
    ends (start 0x400 0x8000 0x0 [(0, 0xFFFFFFF9)] [] [0x15, 0x3F, 0xC0])
      [(0, 0xFFFFFFFC)] [] 0x8000 0x9 0x403 = true := by
  decide +kernel

theorem test_sfaw_2 :
    ends (start 0x400 0x8000 0x0 [(0, 0xFFFFFFFF)] [] [0x15, 0x21, 0xC0])
      [(0, 0xFFFFFFFF)] [] 0x8000 0x9 0x403 = true := by
  decide +kernel

theorem test_rotb_1 :
    ends (start 0x400 0x8000 0x0 [(0, 0xFFFFFF81)] [] [0x21, 0x01, 0xC0])
      [(0, 0xFFFFFFC0)] [] 0x8000 0x9 0x403 = true := by
  decide +kernel

theorem test_rotb_2 :
    ends (start 0x400 0x8000 0x0 [(0, 0xFFFFFF81)] [] [0x21, 0x3F, 0xC0])
      [(0, 0x3)] [] 0x8000 0x1 0x403 = true := by
  decide +kernel

theorem test_rotw_1 :
    ends (start 0x400 0x8000 0x0 [(0, 0x12345678)] [] [0x25, 0x3C, 0xC0])
      [(0, 0x23456781)] [] 0x8000 0x1 0x403 = true := by
  decide +kernel

theorem test_roth_1 :
    ends (start 0x400 0x8000 0x0 [(0, 0x1234)] [] [0x23, 0x08, 0xC0])
      [(0, 0x3412)] [] 0x8000 0x0 0x403 = true := by
  decide +kernel

theorem test_ffob_1 :
    ends (start 0x400 0x8000 0x0 [(1, 0x55)] [] [0x31, 0x00, 0xC1])
      [(1, 0x8)] [] 0x8000 0x4 0x403 = true := by
  decide +kernel

theorem test_ffoh_1 :
    ends (start 0x400 0x8000 0x0 [(0, 0xFFFF0000)] [] [0x33, 0xC0, 0xC1])
      [(1, 0x10)] [] 0x8000 0x4 0x403 = true := by
  decide +kernel

theorem test_movl_2 :
    ends (start 0x400 0x8000 0x0 [(1, 0x11111111), (2, 0x22222222), (3, 0x33333333)] [] [0x0A, 0xC1, 0xC2])
      [(2, 0x11111111), (3, 0x22222222)] [] 0x8000 0x0 0x403 = true := by
  decide +kernel

theorem test_movr_1 :
    ends (start 0x400 0x8000 0x0 [(4, 0x900)] [(0x900, [0x00, 0x00, 0x80, 0x3F])] [0x08, 0x64, 0xC9])
      [(9, 0x3F800000), (4, 0x904)] [] 0x8000 0x0 0x403 = true := by
  decide +kernel

theorem test_mova_1 :
    ends (start 0x400 0x8000 0x0 [(2, 0x1000)] [] [0xE5, 0x82, 0x08, 0xC3])
      [(3, 0x1008)] [] 0x8000 0x0 0x404 = true := by
  decide +kernel

theorem test_mova_2 :
    ends (start 0x400 0x8000 0x0 [] [] [0xE5, 0x00, 0xC0])
      [(0, 0x400)] [] 0x8000 0x0 0x403 = true := by
  decide +kernel

theorem test_cvbw_1 :
    ends (start 0x400 0x8000 0x1 [(0, 0x80)] [] [0x89, 0xC0, 0xC1])
      [(1, 0xFFFFFF80)] [] 0x8000 0x9 0x403 = true := by
  decide +kernel

theorem test_cvhw_1 :
    ends (start 0x400 0x8000 0x0 [] [(0x900, [0xFF, 0x7F])] [0x99, 0xF9, 0x00, 0x09, 0xF9, 0x04, 0x09])
      [] [(0x904, [0xFF, 0x7F, 0x00, 0x00])] 0x8000 0x0 0x407 = true := by
  decide +kernel

theorem test_cvwb_1 :
    ends (start 0x400 0x8000 0x0 [(0, 0x100)] [] [0xA9, 0xC0, 0xC1])
      [(1, 0x0)] [] 0x8000 0x6 0x403 = true := by
  decide +kernel

theorem test_cvwb_2 :
    ends (start 0x400 0x8000 0x0 [(0, 0xFFFFFF85)] [] [0xA9, 0xC0, 0xC1])
      [(1, 0xFFFFFF85)] [] 0x8000 0x8 0x403 = true := by
  decide +kernel

theorem test_cvwh_1 :
    ends (start 0x400 0x8000 0x0 [(0, 0x12345)] [] [0xB9, 0xC0, 0xC1])
      [(1, 0x2345)] [] 0x8000 0x2 0x403 = true := by
  decide +kernel

theorem test_cvbr_1 :
    ends (start 0x400 0x8000 0x0 [(0, 0xFF)] [] [0x09, 0xC0, 0xC1])
      [(1, 0xBF800000)] [] 0x8000 0x9 0x403 = true := by
  decide +kernel

theorem test_cvhr_1 :
    ends (start 0x400 0x8000 0x0 [(0, 0x100)] [] [0x19, 0xC0, 0xC1])
      [(1, 0x43800000)] [] 0x8000 0x0 0x403 = true := by
  decide +kernel

theorem test_cvbl_1 :
    ends (start 0x400 0x8000 0x0 [(0, 0x2)] [] [0x49, 0xC0, 0xC2])
      [(2, 0x0), (3, 0x40000000)] [] 0x8000 0x0 0x403 = true := by
  decide +kernel

theorem test_cvhl_1 :
    ends (start 0x400 0x8000 0x0 [(0, 0xFFFF8000)] [] [0x59, 0xC0, 0xC2])
      [(2, 0x0), (3, 0xC0E00000)] [] 0x8000 0x9 0x403 = true := by
  decide +kernel

theorem test_cvwl_1 :
    ends (start 0x400 0x8000 0x0 [(0, 0x80000000)] [] [0x69, 0xC0, 0xC2])
      [(2, 0x0), (3, 0xC1E00000)] [] 0x8000 0x9 0x403 = true := by
  decide +kernel

theorem test_cvrl_1 :
    ends (start 0x400 0x8000 0x0 [(0, 0x3FC00000)] [] [0x79, 0xC0, 0xC2])
      [(2, 0x0), (3, 0x3FF80000)] [] 0x8000 0x0 0x403 = true := by
  decide +kernel

theorem test_cvrl_2 :
    ends (start 0x400 0x8000 0x0 [(0, 0x7FC00000)] [(0x48, [0x00, 0x07, 0x00, 0x00])] [0x79, 0xC0, 0xC2])
      [] [(0x7FFC, [0x00, 0x02, 0x00, 0x00]), (0x7FF8, [0x00, 0x04, 0x00, 0x00])] 0x7FF8 0x0 0x700 = true := by
  decide +kernel

theorem test_cvlr_1 :
    ends (start 0x400 0x8000 0x0 [(3, 0x3FB99999), (2, 0x9999999A)] [] [0x39, 0xC2, 0xC0])
      [(0, 0x3DCCCCCD)] [] 0x8000 0x20 0x403 = true := by
  decide +kernel

theorem test_cvlr_2 :
    ends (start 0x400 0x8000 0x0 [(3, 0x3FF00000), (2, 0x1)] [] [0x39, 0xC2, 0xC0])
      [(0, 0x3F800000)] [] 0x8000 0x20 0x403 = true := by
  decide +kernel

theorem test_addr_1 :
    ends (start 0x400 0x8000 0x0 [(1, 0x3F800000), (2, 0x40000000)] [] [0x48, 0xC1, 0xC2])
      [(2, 0x40400000)] [] 0x8000 0x0 0x403 = true := by
  decide +kernel

theorem test_addr_2 :
    ends (start 0x400 0x8000 0x0 [(0, 0x40000000)] [] [0x48, 0x01, 0xC0])
      [(0, 0x40400000)] [] 0x8000 0x0 0x403 = true := by
  decide +kernel

theorem test_subr_1 :
    ends (start 0x400 0x8000 0x0 [(1, 0x3F800000), (2, 0x40400000)] [] [0x68, 0xC1, 0xC2])
      [(2, 0x40000000)] [] 0x8000 0x0 0x403 = true := by
  decide +kernel

theorem test_sbrr_1 :
    ends (start 0x400 0x8000 0x0 [(1, 0x3F800000), (2, 0x40400000)] [] [0x28, 0xC1, 0xC2])
      [(2, 0xC0000000)] [] 0x8000 0x9 0x403 = true := by
  decide +kernel

theorem test_mulr_1 :
    ends (start 0x400 0x8000 0x0 [(0, 0x40000000)] [] [0x88, 0x03, 0xC0])
      [(0, 0x40C00000)] [] 0x8000 0x0 0x403 = true := by
  decide +kernel

theorem test_mulr_2 :
    ends (start 0x400 0x8000 0x0 [(1, 0x7F000000), (2, 0x40000000)] [(0x40, [0x00, 0x07, 0x00, 0x00])] [0x88, 0xC1, 0xC2])
      [(2, 0x40000000)] [(0x7FFC, [0x00, 0x01, 0x00, 0x00])] 0x7FF8 0x0 0x700 = true := by
  decide +kernel

theorem test_divr_1 :
    ends (start 0x400 0x8000 0x0 [(0, 0x3F800000)] [] [0xB8, 0x03, 0xC0])
      [(0, 0x3EAAAAAB)] [] 0x8000 0x20 0x403 = true := by
  decide +kernel

theorem test_divr_2 :
    ends (start 0x400 0x8000 0x100400 [(0, 0x3F800000)] [(0x28, [0x00, 0x07, 0x00, 0x00])] [0xB8, 0x03, 0xC0])
      [(0, 0x3EAAAAAB)] [(0x7FFC, [0x20, 0x04, 0x10, 0x00]), (0x7FF8, [0x00, 0x04, 0x00, 0x00])] 0x7FF8 0x0 0x700 = true := by
  decide +kernel

theorem test_dvrr_1 :
    ends (start 0x400 0x8000 0x0 [(1, 0x40C00000), (2, 0x40000000)] [] [0x98, 0xC1, 0xC2])
      [(2, 0x40400000)] [] 0x8000 0x0 0x403 = true := by
  decide +kernel

theorem test_remr_1 :
    ends (start 0x400 0x8000 0x0 [(0, 0x40400000)] [] [0xA8, 0x02, 0xC0])
      [(0, 0x3F800000)] [] 0x8000 0x4 0x403 = true := by
  decide +kernel

theorem test_remr_2 :
    ends (start 0x400 0x8000 0x0 [(0, 0xC0400000)] [] [0xA8, 0x02, 0xC0])
      [(0, 0xBF800000)] [] 0x8000 0xD 0x403 = true := by
  decide +kernel

theorem test_sqtr_1 :
    ends (start 0x400 0x8000 0x0 [] [] [0x58, 0x04, 0xC0])
      [(0, 0x40000000)] [] 0x8000 0x0 0x403 = true := by
  decide +kernel

theorem test_sqtr_2 :
    ends (start 0x400 0x8000 0x0 [] [] [0x58, 0x02, 0xC0])
      [(0, 0x3FB504F3)] [] 0x8000 0x20 0x403 = true := by
  decide +kernel

theorem test_negr_1 :
    ends (start 0x400 0x8000 0x0 [(1, 0x3F800000)] [] [0x18, 0xC1, 0xC0])
      [(0, 0xBF800000)] [] 0x8000 0x9 0x403 = true := by
  decide +kernel

theorem test_negr_2 :
    ends (start 0x400 0x8000 0x0 [] [] [0x18, 0xC1, 0xC0])
      [(0, 0x80000000)] [] 0x8000 0x4 0x403 = true := by
  decide +kernel

theorem test_sgnr_1 :
    ends (start 0x400 0x8000 0x0 [(1, 0xC0000000), (2, 0x40A00000)] [] [0x78, 0xC1, 0xC2])
      [(2, 0xC0A00000)] [] 0x8000 0x9 0x403 = true := by
  decide +kernel

theorem test_cmpr_1 :
    ends (start 0x400 0x8000 0x0 [(1, 0x3F800000), (2, 0x40000000)] [] [0x38, 0xC1, 0xC2])
      [] [] 0x8000 0x9 0x403 = true := by
  decide +kernel

theorem test_cmpr_2 :
    ends (start 0x400 0x8000 0x0 [(2, 0x80000000)] [] [0x38, 0xC1, 0xC2])
      [] [] 0x8000 0x4 0x403 = true := by
  decide +kernel

theorem test_addl_1 :
    ends (start 0x400 0x8000 0x0 [(3, 0x3FB99999), (2, 0x9999999A), (5, 0x3FC99999), (4, 0x9999999A)] [] [0x4A, 0xC2, 0xC4])
      [(5, 0x3FD33333), (4, 0x33333334)] [] 0x8000 0x20 0x403 = true := by
  decide +kernel

theorem test_divl_1 :
    ends (start 0x400 0x8000 0x0 [(3, 0x40000000)] [] [0xBA, 0x03, 0xC2])
      [(3, 0x3FE55555), (2, 0x55555555)] [] 0x8000 0x20 0x403 = true := by
  decide +kernel

theorem test_sqtl_1 :
    ends (start 0x400 0x8000 0x0 [] [] [0x5A, 0x02, 0xC2])
      [(3, 0x3FF6A09E), (2, 0x667F3BCD)] [] 0x8000 0x20 0x403 = true := by
  decide +kernel

theorem test_mull_1 :
    ends (start 0x400 0x8000 0x0 [(3, 0x3FF00000)] [] [0x8A, 0x20, 0xC2])
      [(3, 0xC0400000), (2, 0x0)] [] 0x8000 0x9 0x403 = true := by
  decide +kernel

theorem test_bg_1 :
    ends (start 0x400 0x8000 0x0 [] [] [0x0F, 0x08])
      [] [] 0x8000 0x0 0x408 = true := by
  decide +kernel

theorem test_bg_2 :
    ends (start 0x400 0x8000 0x4 [] [] [0x0F, 0x08])
      [] [] 0x8000 0x4 0x402 = true := by
  decide +kernel

theorem test_ble_1 :
    ends (start 0x400 0x8000 0x4 [] [] [0x1F, 0x08])
      [] [] 0x8000 0x4 0x408 = true := by
  decide +kernel

theorem test_ble_2 :
    ends (start 0x400 0x8000 0x0 [] [] [0x1F, 0x08])
      [] [] 0x8000 0x0 0x402 = true := by
  decide +kernel

theorem test_bgu_1 :
    ends (start 0x400 0x8000 0x0 [] [] [0x2F, 0x08])
      [] [] 0x8000 0x0 0x408 = true := by
  decide +kernel

theorem test_bgu_2 :
    ends (start 0x400 0x8000 0x1 [] [] [0x2F, 0x08])
      [] [] 0x8000 0x1 0x402 = true := by
  decide +kernel

theorem test_bleu_1 :
    ends (start 0x400 0x8000 0x1 [] [] [0x3F, 0x08])
      [] [] 0x8000 0x1 0x408 = true := by
  decide +kernel

theorem test_bleu_2 :
    ends (start 0x400 0x8000 0x0 [] [] [0x3F, 0x08])
      [] [] 0x8000 0x0 0x402 = true := by
  decide +kernel

theorem test_bge_1 :
    ends (start 0x400 0x8000 0x8 [] [] [0x4F, 0x08])
      [] [] 0x8000 0x8 0x402 = true := by
  decide +kernel

theorem test_bge_2 :
    ends (start 0x400 0x8000 0x4 [] [] [0x4F, 0x08])
      [] [] 0x8000 0x4 0x408 = true := by
  decide +kernel

theorem test_bl_1 :
    ends (start 0x400 0x8000 0x8 [] [] [0x5F, 0x08])
      [] [] 0x8000 0x8 0x408 = true := by
  decide +kernel

theorem test_bl_2 :
    ends (start 0x400 0x8000 0x0 [] [] [0x5F, 0x08])
      [] [] 0x8000 0x0 0x402 = true := by
  decide +kernel

theorem test_bgeu_1 :
    ends (start 0x400 0x8000 0x1 [] [] [0x6F, 0x08])
      [] [] 0x8000 0x1 0x402 = true := by
  decide +kernel

theorem test_bgeu_2 :
    ends (start 0x400 0x8000 0x0 [] [] [0x6F, 0x08])
      [] [] 0x8000 0x0 0x408 = true := by
  decide +kernel

theorem test_blu_1 :
    ends (start 0x400 0x8000 0x1 [] [] [0x7F, 0x08])
      [] [] 0x8000 0x1 0x408 = true := by
  decide +kernel

theorem test_blu_2 :
    ends (start 0x400 0x8000 0x0 [] [] [0x7F, 0x08])
      [] [] 0x8000 0x0 0x402 = true := by
  decide +kernel

theorem test_bne_1 :
    ends (start 0x400 0x8000 0x0 [] [] [0x8F, 0x08])
      [] [] 0x8000 0x0 0x408 = true := by
  decide +kernel

theorem test_bne_2 :
    ends (start 0x400 0x8000 0x4 [] [] [0x8F, 0x08])
      [] [] 0x8000 0x4 0x402 = true := by
  decide +kernel

theorem test_be_1 :
    ends (start 0x400 0x8000 0x4 [] [] [0x9F, 0x08])
      [] [] 0x8000 0x4 0x408 = true := by
  decide +kernel

theorem test_bnv_1 :
    ends (start 0x400 0x8000 0x2 [] [] [0xAF, 0x08])
      [] [] 0x8000 0x2 0x402 = true := by
  decide +kernel

theorem test_bnv_2 :
    ends (start 0x400 0x8000 0x0 [] [] [0xAF, 0x08])
      [] [] 0x8000 0x0 0x408 = true := by
  decide +kernel

theorem test_bv_1 :
    ends (start 0x400 0x8000 0x2 [] [] [0xBF, 0x08])
      [] [] 0x8000 0x2 0x408 = true := by
  decide +kernel

theorem test_be_2 :
    ends (start 0x400 0x8000 0x4 [(3, 0x20)] [] [0x9F, 0xC3])
      [] [] 0x8000 0x4 0x420 = true := by
  decide +kernel

theorem test_jmp_1 :
    ends (start 0x10000 0x8000 0x0 [] [] [0xDF, 0xF9, 0x00, 0x04])
      [] [] 0x8000 0x0 0x400 = true := by
  decide +kernel

theorem test_jmp_2 :
    ends (start 0x400 0x8000 0x0 [(2, 0x1000)] [] [0xDF, 0x42])
      [] [] 0x8000 0x0 0x1000 = true := by
  decide +kernel

theorem test_call_1 :
    ends (start 0x500 0x8000 0x0 [] [] [0xCF, 0xF9, 0x00, 0x06])
      [] [(0x7FFC, [0x04, 0x05, 0x00, 0x00])] 0x7FFC 0x0 0x600 = true := by
  decide +kernel

theorem test_ret_1 :
    ends (start 0x400 0x7FFC 0x0 [] [(0x7FFC, [0x04, 0x05, 0x00, 0x00])] [0xEB])
      [] [] 0x8000 0x0 0x504 = true := by
  decide +kernel

theorem test_retp_1 :
    ends (start 0x400 0x7FF0 0x0 [] [(0x7FF0, [0x0A, 0x04, 0x00, 0x00])] [0xEF, 0x08])
      [] [] 0x7FFC 0x0 0x40A = true := by
  decide +kernel

theorem test_retp_2 :
    ends (start 0x400 0x7FF0 0x0 [] [(0x7FF0, [0x08, 0x00, 0x00, 0x00, 0x0A, 0x04, 0x00, 0x00])] [0xEF, 0xFC])
      [] [] 0x8000 0x0 0x40A = true := by
  decide +kernel

theorem test_nop_1 :
    ends (start 0x400 0x8000 0xF [] [] [0x0B])
      [] [] 0x8000 0xF 0x401 = true := by
  decide +kernel

theorem test_clc_1 :
    ends (start 0x400 0x8000 0x1 [] [] [0x1B])
      [] [] 0x8000 0x0 0x401 = true := by
  decide +kernel

theorem test_stc_1 :
    ends (start 0x400 0x8000 0x1 [] [] [0x2B])
      [] [] 0x8000 0x1 0x401 = true := by
  decide +kernel

theorem test_cmc_1 :
    ends (start 0x400 0x8000 0x1 [] [] [0x3B])
      [] [] 0x8000 0x0 0x401 = true := by
  decide +kernel

theorem test_ei_1 :
    ends (start 0x400 0x8000 0x0 [] [] [0x8B])
      [] [] 0x8000 0x100000 0x401 = true := by
  decide +kernel

theorem test_di_1 :
    ends (start 0x400 0x8000 0x100000 [] [] [0x9B])
      [] [] 0x8000 0x0 0x401 = true := by
  decide +kernel

theorem test_ldpr_1 :
    ends (start 0x400 0x7000 0x0 [] [] [0x85, 0xFD, 0x00, 0x80, 0x00, 0x00, 0x00])
      [] [] 0x8000 0x0 0x407 = true := by
  decide +kernel

theorem test_ldpr_2 :
    ends (start 0x400 0x8000 0x0 [] [(0x60, [0x00, 0x07, 0x00, 0x00])] [0x85, 0xFD, 0x00, 0x07, 0x00, 0x00, 0x00])
      [] [(0x6FC, [0x00, 0x00, 0x00, 0x00]), (0x6F8, [0x00, 0x04, 0x00, 0x00])] 0x6F8 0x0 0x700 = true := by
  decide +kernel

theorem test_stpr_1 :
    ends (start 0x400 0x8000 0x100005 [] [] [0x95, 0x01, 0xC0])
      [(0, 0x100005)] [] 0x8000 0x100001 0x403 = true := by
  decide +kernel

theorem test_stpr_2 :
    ends (start 0x400 0x8000 0x0 [] [] [0x95, 0x00, 0xFC])
      [] [(0x7FFC, [0x00, 0x80, 0x00, 0x00])] 0x7FFC 0x0 0x403 = true := by
  decide +kernel

theorem test_trap_2 :
    ends (start 0x1000 0x8000 0x100004 [] [(0x400, [0x00, 0x20, 0x00, 0x00, 0x00, 0x00, 0x00, 0x00])] [0x4E, 0xFD, 0x80])
      [] [(0x7FFC, [0x04, 0x00, 0x10, 0x00]), (0x7FF8, [0x03, 0x10, 0x00, 0x00])] 0x7FF8 0x0 0x2000 = true := by
  decide +kernel

theorem test_reti_1 :
    ends (start 0x400 0x7FF8 0x0 [] [(0x7FF8, [0x03, 0x10, 0x00, 0x00, 0x04, 0x00, 0x10, 0x00])] [0xCB])
      [] [] 0x8000 0x100004 0x1003 = true := by
  decide +kernel

theorem test_bkpt_1 :
    ends (start 0x400 0x8000 0x100001 [] [(0x10, [0x00, 0x07, 0x00, 0x00])] [0x6B])
      [] [(0x7FFC, [0x01, 0x00, 0x10, 0x00]), (0x7FF8, [0x01, 0x04, 0x00, 0x00])] 0x7FF8 0x0 0x700 = true := by
  decide +kernel

theorem test_res_1 :
    ends (start 0x400 0x8000 0x0 [] [(0x50, [0x00, 0x07, 0x00, 0x00])] [0x06])
      [] [(0x7FF8, [0x00, 0x04, 0x00, 0x00]), (0x7FFC, [0x00, 0x00, 0x00, 0x00])] 0x7FF8 0x0 0x700 = true := by
  decide +kernel

theorem test_esc_1 :
    ends (start 0x400 0x8000 0x0 [] [(0x50, [0x00, 0x07, 0x00, 0x00])] [0xF8])
      [] [(0x7FF8, [0x00, 0x04, 0x00, 0x00]), (0x7FFC, [0x00, 0x00, 0x00, 0x00])] 0x7FF8 0x0 0x700 = true := by
  decide +kernel

theorem test_negb_1 :
    ends (start 0x400 0x8000 0x0 [(0, 0x80)] [] [0x10, 0xC0, 0xC1])
      [(1, 0xFFFFFF80)] [] 0x8000 0x3 0x403 = true := by
  decide +kernel

theorem test_negh_1 :
    ends (start 0x400 0x8000 0x0 [(0, 0x1)] [] [0x12, 0xC0, 0xC1])
      [(1, 0xFFFFFFFF)] [] 0x8000 0x9 0x403 = true := by
  decide +kernel

theorem test_sbrb_1 :
    ends (start 0x400 0x8000 0x0 [(0, 0x5), (1, 0x3)] [] [0x20, 0xC0, 0xC1])
      [(1, 0x2)] [] 0x8000 0x0 0x403 = true := by
  decide +kernel

theorem test_sbrh_1 :
    ends (start 0x400 0x8000 0x0 [(0, 0x3), (1, 0x5)] [] [0x22, 0xC0, 0xC1])
      [(1, 0xFFFFFFFE)] [] 0x8000 0x9 0x403 = true := by
  decide +kernel

theorem test_cmph_1 :
    ends (start 0x400 0x8000 0x0 [(0, 0x1), (1, 0x2)] [] [0x32, 0xC0, 0xC1])
      [] [] 0x8000 0x9 0x403 = true := by
  decide +kernel

theorem test_addh_1 :
    ends (start 0x400 0x8000 0x0 [(0, 0xFFFF), (1, 0x1)] [] [0x42, 0xC0, 0xC1])
      [(1, 0x0)] [] 0x8000 0x5 0x403 = true := by
  decide +kernel

theorem test_adcb_1 :
    ends (start 0x400 0x8000 0x1 [(0, 0x1), (1, 0x7E)] [] [0x50, 0xC0, 0xC1])
      [(1, 0xFFFFFF80)] [] 0x8000 0x2 0x403 = true := by
  decide +kernel

theorem test_adch_1 :
    ends (start 0x400 0x8000 0x1 [(0, 0x1), (1, 0x2)] [] [0x52, 0xC0, 0xC1])
      [(1, 0x4)] [] 0x8000 0x0 0x403 = true := by
  decide +kernel

theorem test_subb_1 :
    ends (start 0x400 0x8000 0x0 [(0, 0x1), (1, 0x0)] [] [0x60, 0xC0, 0xC1])
      [(1, 0xFFFFFFFF)] [] 0x8000 0x9 0x403 = true := by
  decide +kernel

theorem test_subh_1 :
    ends (start 0x400 0x8000 0x0 [(0, 0x1), (1, 0xFFFF8000)] [] [0x62, 0xC0, 0xC1])
      [(1, 0x7FFF)] [] 0x8000 0xA 0x403 = true := by
  decide +kernel

theorem test_sbbb_1 :
    ends (start 0x400 0x8000 0x1 [(0, 0x0), (1, 0x5)] [] [0x70, 0xC0, 0xC1])
      [(1, 0x4)] [] 0x8000 0x0 0x403 = true := by
  decide +kernel

theorem test_sbbh_1 :
    ends (start 0x400 0x8000 0x1 [(0, 0x5), (1, 0x5)] [] [0x72, 0xC0, 0xC1])
      [(1, 0xFFFFFFFF)] [] 0x8000 0x9 0x403 = true := by
  decide +kernel

theorem test_dvrb_1 :
    ends (start 0x400 0x8000 0x0 [(0, 0x64), (1, 0x7)] [] [0x90, 0xC0, 0xC1])
      [(1, 0xE)] [] 0x8000 0x0 0x403 = true := by
  decide +kernel

theorem test_dvrh_1 :
    ends (start 0x400 0x8000 0x0 [(0, 0xFFF9), (1, 0x2)] [] [0x92, 0xC0, 0xC1])
      [(1, 0xFFFFFFFD)] [] 0x8000 0x8 0x403 = true := by
  decide +kernel

theorem test_remb_1 :
    ends (start 0x400 0x8000 0x0 [(0, 0x3), (1, 0xF9)] [] [0xA0, 0xC0, 0xC1])
      [(1, 0xFFFFFFFF)] [] 0x8000 0x8 0x403 = true := by
  decide +kernel

theorem test_remh_1 :
    ends (start 0x400 0x8000 0x0 [(0, 0x3), (1, 0x7)] [] [0xA2, 0xC0, 0xC1])
      [(1, 0x1)] [] 0x8000 0x0 0x403 = true := by
  decide +kernel

theorem test_divh_1 :
    ends (start 0x400 0x8000 0x0 [(0, 0x2), (1, 0x7)] [] [0xB2, 0xC0, 0xC1])
      [(1, 0x3)] [] 0x8000 0x0 0x403 = true := by
  decide +kernel

theorem test_sfth_1 :
    ends (start 0x400 0x8000 0x0 [(1, 0x1234)] [] [0x03, 0x04, 0xC1])
      [(1, 0x2340)] [] 0x8000 0x1 0x403 = true := by
  decide +kernel

theorem test_sfah_1 :
    ends (start 0x400 0x8000 0x0 [(1, 0xFFF9)] [] [0x13, 0x3F, 0xC1])
      [(1, 0xFFFFFFFC)] [] 0x8000 0x9 0x403 = true := by
  decide +kernel

theorem test_andb_1 :
    ends (start 0x400 0x8000 0x0 [(0, 0xF0), (1, 0x3C)] [] [0x41, 0xC0, 0xC1])
      [(1, 0x30)] [] 0x8000 0x0 0x403 = true := by
  decide +kernel

theorem test_andh_1 :
    ends (start 0x400 0x8000 0x0 [(0, 0x8001), (1, 0xC000)] [] [0x43, 0xC0, 0xC1])
      [(1, 0xFFFF8000)] [] 0x8000 0x8 0x403 = true := by
  decide +kernel

theorem test_orh_1 :
    ends (start 0x400 0x8000 0x0 [(0, 0x1), (1, 0x8000)] [] [0x53, 0xC0, 0xC1])
      [(1, 0xFFFF8001)] [] 0x8000 0x8 0x403 = true := by
  decide +kernel

theorem test_orw_1 :
    ends (start 0x400 0x8000 0x0 [(0, 0x0), (1, 0x0)] [] [0x55, 0xC0, 0xC1])
      [(1, 0x0)] [] 0x8000 0x4 0x403 = true := by
  decide +kernel

theorem test_xorb_1 :
    ends (start 0x400 0x8000 0x0 [(0, 0xFF), (1, 0xF)] [] [0x61, 0xC0, 0xC1])
      [(1, 0xFFFFFFF0)] [] 0x8000 0x8 0x403 = true := by
  decide +kernel

theorem test_xorh_1 :
    ends (start 0x400 0x8000 0x0 [(0, 0x1), (1, 0x3)] [] [0x63, 0xC0, 0xC1])
      [(1, 0x2)] [] 0x8000 0x0 0x403 = true := by
  decide +kernel

theorem test_notb_1 :
    ends (start 0x400 0x8000 0x0 [(0, 0xFF)] [] [0x71, 0xC0, 0xC1])
      [(1, 0x0)] [] 0x8000 0x4 0x403 = true := by
  decide +kernel

theorem test_notw_1 :
    ends (start 0x400 0x8000 0x0 [(0, 0x0)] [] [0x75, 0xC0, 0xC1])
      [(1, 0xFFFFFFFF)] [] 0x8000 0x8 0x403 = true := by
  decide +kernel

theorem test_bitb_1 :
    ends (start 0x400 0x8000 0x1 [(0, 0x80), (1, 0x80)] [] [0xC0, 0xC0, 0xC1])
      [] [] 0x8000 0x9 0x403 = true := by
  decide +kernel

theorem test_negl_1 :
    ends (start 0x400 0x8000 0x0 [(2, 0x0), (3, 0x3FF00000)] [] [0x1A, 0xC2, 0xC4])
      [(4, 0x0), (5, 0xBFF00000)] [] 0x8000 0x9 0x403 = true := by
  decide +kernel

theorem test_sbrl_1 :
    ends (start 0x400 0x8000 0x0 [(3, 0x3FF00000), (5, 0x40000000)] [] [0x2A, 0xC2, 0xC4])
      [(4, 0x0), (5, 0xBFF00000)] [] 0x8000 0x9 0x403 = true := by
  decide +kernel

theorem test_cmpl_1 :
    ends (start 0x400 0x8000 0x0 [(3, 0x3FF00000), (5, 0x40000000)] [] [0x3A, 0xC2, 0xC4])
      [] [] 0x8000 0x9 0x403 = true := by
  decide +kernel

theorem test_subl_1 :
    ends (start 0x400 0x8000 0x0 [(3, 0x3FF00000), (5, 0x40000000)] [] [0x6A, 0xC2, 0xC4])
      [(5, 0x3FF00000)] [] 0x8000 0x0 0x403 = true := by
  decide +kernel

theorem test_sgnl_1 :
    ends (start 0x400 0x8000 0x0 [(3, 0xC0000000), (5, 0x40140000)] [] [0x7A, 0xC2, 0xC4])
      [(5, 0xC0140000)] [] 0x8000 0x9 0x403 = true := by
  decide +kernel

theorem test_dvrl_1 :
    ends (start 0x400 0x8000 0x0 [(3, 0x40180000), (5, 0x40000000)] [] [0x9A, 0xC2, 0xC4])
      [(5, 0x40080000)] [] 0x8000 0x0 0x403 = true := by
  decide +kernel

theorem test_reml_1 :
    ends (start 0x400 0x8000 0x0 [(5, 0x40080000)] [] [0xAA, 0x02, 0xC4])
      [(5, 0x3FF00000)] [] 0x8000 0x4 0x403 = true := by
  decide +kernel

theorem test_rep_1 :
    ends (start 0x400 0x8000 0x0 [] [] [0x1E, 0xC5])
      [] [] 0x8000 0x54000000 0x402 = true := by
  decide +kernel

theorem test_rep_2 :
    ends (start 0x400 0x8000 0x0 [] [(0x80, [0x00, 0x07, 0x00, 0x00])] [0x1E, 0x05])
      [] [(0x7FF8, [0x00, 0x04, 0x00, 0x00])] 0x7FF8 0x0 0x700 = true := by
  decide +kernel

theorem test_repz_1 :
    ends (start 0x400 0x8000 0x0 [] [] [0x2E, 0xC5])
      [] [] 0x8000 0x94000004 0x402 = true := by
  decide +kernel

theorem test_repnz_1 :
    ends (start 0x400 0x8000 0x4 [] [] [0x3E, 0xC5])
      [] [] 0x8000 0xD4000000 0x402 = true := by
  decide +kernel

theorem test_rett_1 :
    ends (start 0x400 0x7FF8 0x0 [] [(0x7FF8, [0x03, 0x10, 0x00, 0x00, 0x04, 0x00, 0x10, 0x00])] [0xDB])
      [] [] 0x8000 0x100004 0x1003 = true := by
  decide +kernel

/-! ### The remaining instructions: one step on values from their rules (45 R338, R339, R344, R345; 46 R363 to R367) -/

/-- One step leads to a state with this property. -/
def leads (s : State) (p : State → Bool) : Bool :=
  match step s with
  | .next t => p t
  | _ => false

/-- One step is refused for this reason. -/
def refuses (s : State) (r : Refusal) : Bool :=
  match step s with
  | .refused q => q == r
  | _ => false

theorem test_eron : leads { start 0x400 0x8000 0 [] [] [0x4B] with errorFlag := false } (·.errorFlag) = true := by
  decide +kernel

theorem test_erof : leads (start 0x400 0x8000 0 [] [] [0x5B]) (fun t => !t.errorFlag && t.pc == 0x401) = true := by
  decide +kernel

theorem test_wait : leads (start 0x400 0x8000 0 [] [] [0xAB]) (fun t => t.waiting && t.pc == 0x401) = true := by
  decide +kernel

theorem test_rett_inhibits :
    leads (start 0x400 0x7FF8 0 [] [(0x7FF8, [3, 0x10, 0, 0, 4, 0, 0x10, 0])] [0xDB]) (·.inhibit) = true := by
  decide +kernel

/-- LPTR #16r901,#3: the low bit is forced to 0. -/
theorem test_lptr : leads (start 0x400 0x8000 0 [] [] [0xB5, 0xFD, 0x01, 0x09, 0, 0, 0x03])
    (fun t => (t.inPorts.get 3).addr == 0x900 && (t.outPorts.get 3).addr == 0) = true := by decide +kernel

/-- LPTR to port 63, the host output. -/
theorem test_lptr_output : leads (start 0x400 0x8000 0 [(1, 63)] [] [0xB5, 0x0A, 0xC1])
    (fun t => (t.outPorts.get 10).addr == 10) = true := by decide +kernel

/-- LCNT on an input port clears its error flags and notes. -/
theorem test_lcnt : leads
    { start 0x400 0x8000 0 [] [] [0xA5, 0x05, 0x1F] with
      pe := 0x80000001
      inPorts := (Vector.replicate 11 InPort.idle).set 10 { InPort.idle with parityNoted := true } }
    (fun t => t.inPorts.get 10 == { InPort.idle with count := 4 } && t.pe == 1) = true := by decide +kernel

theorem test_lcnt_output : leads (start 0x400 0x8000 0 [] [] [0xA5, 0x02, 0xFD, 0x29])
    (fun t => (t.outPorts.get 9).count == 2 && (t.inPorts.get 9).count == 0) = true := by decide +kernel

/-- BPTR #8 over ports 32, 33 and 63. -/
theorem test_bptr : leads (start 0x400 0x8000 0 [(1, 0x80000003)] [] [0xD5, 0x08, 0xC1])
    (fun t => (t.outPorts.get 0).addr == 8 && (t.outPorts.get 1).addr == 8 && (t.outPorts.get 2).addr == 0
      && (t.outPorts.get 10).addr == 8) = true := by decide +kernel

/-- BCNT #7 over ports 32 and 33 starts a broadcast of 6 bytes. -/
theorem test_bcnt : leads (start 0x400 0x8000 0 [] [] [0xC5, 0x07, 0x03])
    (fun t => (t.outPorts.get 0).count == 6 && (t.outPorts.get 1).count == 6 && (t.outPorts.get 2).count == 0
      && t.broadcast == some 3) = true := by decide +kernel

theorem test_rset : leads
    { start 0x400 0x8000 0 [] [] [0x7B] with
      oe := 1, ie := 2, pe := 4, io := 8, broadcast := some 1, cePending := true
      outPorts := (Vector.replicate 11 OutPort.idle).set 0 { addr := 2, count := 4, link := some 7 } }
    (fun t => t.oe == 0 && t.ie == 0 && t.pe == 0 && t.io == 0 && t.broadcast == none && !t.cePending
      && t.outPorts.get 0 == OutPort.idle) = true := by decide +kernel

/-! ### Moves of other agents within an instruction, REPEAT over an illegal field, floating-point data in pieces -/

/-- MOVW 16r901,R1 with the latch of port 31 stored to 16r902 after byte 2, at 16r903, is read (20 R68, R71). -/
theorem test_misaligned_read_in_pieces : leads
    { start 0x400 0x8000 0 [] [(0x900, [0x11, 0x22, 0x33, 0x44, 0x55])] [0x04, 0xF9, 0x01, 0x09, 0xC1] with
      inPorts := (Vector.replicate 11 InPort.idle).set 10 { InPort.idle with addr := 0x902, count := 4, latch := some 0xBBAA }
      schedule := [.processor [] [[], [], [], [.byte 2, .move (.storeLatch 10)]]] }
    (fun t => t.regs.get 1 == 0x5544AA22 && codeBytes t.mem 0x901 4 == [0x22, 0xAA, 0xBB, 0x55]) = true := by
  decide +kernel

/-- ADDW R1,16r900 with the same store between the read and the write of its destination: lost (20 R66, R71). -/
theorem test_not_atomic_with_dma : leads
    { start 0x400 0x8000 0 [(1, 1)] [(0x900, [1, 0, 2, 0])] [0x44, 0xC1, 0xF9, 0x00, 0x09] with
      inPorts := (Vector.replicate 11 InPort.idle).set 10 { InPort.idle with addr := 0x902, count := 4, latch := some 0xBBAA }
      schedule := [.processor [] [[], [], [], [], [], [.move (.storeLatch 10)]]] }
    (fun t => codeBytes t.mem 0x900 4 == [2, 0, 2, 0] && (t.inPorts.get 10).count == 2) = true := by
  decide +kernel

/-- STPR #7,R2 sees the transfer into port 31 that ends before the fetch of its first field (20 R71, 46 R370). -/
theorem test_stpr_sees_a_store_between_fetches : leads
    { start 0x400 0x8000 0 [] [] [0x95, 0x07, 0xC2] with
      inPorts := (Vector.replicate 11 InPort.idle).set 10 { InPort.idle with addr := 0x900, count := 2, latch := some 7 }
      schedule := [.processor [] [[], [.move (.storeLatch 10)]]] }
    (fun t => t.regs.get 2 == 0x800003FF && codeBytes t.mem 0x900 2 == [7, 0]) = true := by decide +kernel

/-- A port stores into 16r400 and 16r401 while MOVW R1,R2 stands there: before the byte at 16r401 is fetched, and after
it; or into 16r402 before the opcode byte is fetched, the only visit of the turn (20 R76, 93 U20). -/
theorem test_store_into_a_byte_not_fetched : (
    let s (a : Word) (during : List (List Visit)) : State := { start 0x400 0x8000 0 [(1, 5)] [] [0x04, 0xC1, 0xC2] with
      inPorts := (Vector.replicate 11 InPort.idle).set 10 { InPort.idle with addr := a, count := 2, latch := some 7 }
      schedule := [.processor [] during] }
    refuses (s 0x400 [[], [.move (.storeLatch 10)]]) .staleInstructionBytes &&
      leads (s 0x400 [[], [], [.move (.storeLatch 10)]]) (fun t => t.regs.get 2 == 5) &&
      refuses (s 0x402 [[.move (.storeLatch 10)]]) .staleInstructionBytes) = true := by decide +kernel

/-- BCNT with a nonzero count and an empty mask while a broadcast is in progress (46 R366, 93 U14). -/
theorem test_bcnt_during_a_broadcast :
    refuses { start 0x400 0x8000 0 [] [] [0xC5, 0x07, 0x00] with broadcast := some 3 } .broadcastRule = true := by
  decide +kernel

/-- A first uncorrectable error at RSET (7B) leaves ERROR, a second one at RETI (CB) sets it (60 R419, R446); one at an
opcode outside memory is pending after the Address Error (20 R64, 60 R419). -/
theorem test_uncorrectable_error_flag : (
    let met (s : State) : State := { s with errorFlag := false, schedule := [.processor [.uncorrectable] []] }
    leads (met (start 0x400 0x8000 0 [] [] [0x7B])) (fun t => !t.errorFlag && t.uePending) &&
      leads (met { start 0x400 0x7FF8 0 [] [] [0xCB] with ueMarker := true }) (fun t => t.errorFlag) &&
      leads (met (start 0x20000 0x8000 0 [] [] [])) (fun t => t.uePending && t.sp == 0x7FF8 && !t.errorFlag)) = true := by
  decide +kernel

/-- An uncorrectable error keeps what the instruction could not have written (60 R419, 93 U3): RES 06 under REP R5 keeps
R5 and PS (44 R311); MOVW writes no bit of PS; ADDW of an operand outside memory at R1 and one by Autoincrement of R2
(44 41 62) keeps R2 and PS, its first field faulting before the second is evaluated (30 R116). -/
theorem test_uncorrectable_error_keeps : (
    let met (s : State) : State := { s with schedule := [.processor [.uncorrectable] []] }
    leads (met (start 0x400 0x8000 0x54000000 [(5, 3)] [] [0x06])) (fun t => t.regs.get 5 == 3 && t.ps == 0x54000000) &&
      leads (met (start 0x400 0x8000 0x1F [(1, 0x20000), (2, 0x900)] [] [0x44, 0x41, 0x62]))
        (fun t => t.regs.get 2 == 0x900) &&
      psMask (.movw (.register 1) (.register 2)) 0x1F {} 0x8000 == 0 &&
      psMask (.addw (.register 1) (.register 2)) 0x1F { evaluated := false } 0x8000 == 0 &&
      psMask (.addw (.register 1) (.register 2)) 0x1F {} 0x8000 == 0x1F &&
      psMask (.jmp (.register 1)) 0x40000000 {} 0x8000 == 0xC0000000) = true := by
  decide +kernel

/-- MOVW R1,R2 with the outcomes of its fetches: a corrected error leaves 14 pending, an uncorrectable one 15, one of
each both if the corrected one comes first (20 R70, 60 R418, R419, R424). -/
theorem test_ecc_outcome_of_each_access : (
    let met (eccs : List Ecc) (p : State → Bool) : Bool :=
      leads { start 0x400 0x8000 0 [(1, 7)] [] [0x04, 0xC1, 0xC2] with schedule := [.processor eccs []] } p
    met [.clean, .clean] (fun t => !t.cePending && !t.uePending) &&
      met [.clean, .corrected] (fun t => t.cePending && !t.uePending && t.regs.get 2 == 7) &&
      met [.corrected, .uncorrectable] (fun t => t.cePending && t.uePending) &&
      met [.uncorrectable, .corrected] (fun t => !t.cePending && t.uePending)) = true := by
  decide +kernel

/-- An early write of the host to bytes 6 and 7 is made; one to the flag at location 0 waits for the ROM's moves
(70 R469, 92 D35). -/
theorem test_host_write_early : (
    let host (pc a : Word) : State :=
      { State.resetNode true with pc := pc, schedule := [.move (.hostWrite a 0xFFFF)] }
    leads (host 28 6) (fun t => t.mem.get 6 == 0xFF && t.mem.get 7 == 0xFF) &&
      !leads (host 28 0) (fun _ => true) && leads (host 29 0) (fun t => t.mem.get 1 == 0xFF)) = true := by
  decide +kernel

/-- MOVW R1,R2 is skipped after REP R5 with R5 = 0; an error that cannot be corrected then leaves R2 (60 R419, 93 U3). -/
theorem test_uncorrectable_error_in_a_skip : leads
    { start 0x400 0x8000 0x54000000 [(1, 7), (2, 9)] [] [0x04, 0xC1, 0xC2] with
      schedule := [.processor [.uncorrectable] []] }
    (fun t => t.regs.get 2 == 9 && t.regs.get 5 == 0) = true := by decide +kernel

/-- A halfword at port 5 after the ROM's RSET has emptied the latch that port 3 filled (70 R485, 93 U19). -/
theorem test_boot_port_outlives_reset : (
    let s : State := { State.resetNode false with pc := 7, schedule := [.move (.arrive 5 1018 false)] }
    refuses { s with bootPort := some 3 } .bootProtocol &&
      leads s (fun t => t.bootPort == some 5)) = true := by decide +kernel

/-- Longreals at 0, at 8 and at 4 read as the bytes of memory at any of these; Longreals at 2 and 8 with a Word over
part of the first do not (20 R65, 70 R481). -/
theorem test_longreal_read_whole : (
    let s := (((start 0x400 0x8000 0 [] [] []).store .float 0 8 1).store .float 8 8 2).store .float 4 8 3
    let t := (((start 0x400 0x8000 0 [] [] []).store .float 2 8 1).store .float 10 8 2).store .other 4 4 3
    s.load true 0 8 == s.mem.read 0 8 && s.load true 8 8 == s.mem.read 8 8 && s.load true 4 8 == s.mem.read 4 8 &&
      s.load true 2 8 == s.mem.read 2 8 && t.stale true 2 8 4 && !t.stale true 10 8 10) = true := by decide +kernel

/-- MOVB with a reserved first field and the count register second, after REP R5: Operand Error (30 R114). -/
theorem test_repeated_illegal_first_field :
    ends (start 0x400 0x8000 0x54000000 [(5, 3)] [(128, [0, 6, 0, 0, 0, 0, 0, 0])] [0x00, 0xE0, 0xC5])
      [(5, 2)] [(0x7FF8, [0, 4, 0, 0, 0, 0, 0, 0x54])] 0x7FF8 0 0x600 = true := by decide +kernel

/-- A Real at 2: a Halfword of it is a free value, the whole of it and the Longreal around it are not; nor is what a
Word store at 4 has replaced (70 R481). -/
theorem test_misaligned_real_read : (
    let s := (start 0x400 0x8000 0 [] [] []).store .float 2 4 0x3F800000
    s.stale false 4 2 4 && !s.stale true 2 4 4 && !s.stale true 0 8 4 &&
      (let t := s.store .other 4 4 7
       !t.stale false 6 2 6 && !t.stale false 4 4 4 && t.stale false 2 2 2)) = true := by decide +kernel

/-- Two Words at 2 and 6 are no misaligned Longreal (20 R65); two at 7FF8 and 7FFC are an aligned one, whatever stood at
7FF4 (70 R481). -/
theorem test_real_stored_in_pieces : (
    (((start 0x400 0x8000 0 [] [] []).store .other 2 4 1).store .other 6 4 2).stale true 2 8 2 &&
      (let s := (((start 0x400 0x8000 0 [] [] []).store .float 0x7FF4 8 1).store .other 0x7FF8 4 2).store .other 0x7FFC 4 3
       (List.range 8).all fun j => !s.stale true 0x7FF8 8 (0x7FF8 + j))) = true := by decide +kernel

/-- A Longreal in the odd pair R1, R2 and then Words in both: the pair is those two Words (10 R11). -/
theorem test_odd_pair_rewritten :
    ((((start 0x400 0x8000 0 [] [] []).setPair 1 0x123456789).setReg 1 7).setReg 2 9).pair 1 = 0x900000007 := by
  decide +kernel

/-- 7 rem 2 with REM_STEP at its default is 1; with one quotient bit at a time it is 3, not reduced (43 R259). -/
theorem test_rem_step :
    (fpFormat .real).remBy none 0 0 0x40000000 0x40E00000 = .value 0x3F800000 false true false false false ∧
    (fpFormat .real).remBy (some 0) 0 0 0x40000000 0x40E00000 = .value 0x40400000 false false false false false := by
  decide +kernel

/-! ### Reset, the first step, and the two functions the host asks (10 R50, 70 R461, R463) -/

theorem test_reset_pc_and_rom : State.reset.pc = 0 ∧ State.reset.romActive = true ∧ State.reset.sp = 0x8000 := by
  decide

/-- ADDW R1,R2 as the opcode table numbers its bits, operand bytes zero: ADDW #0,#0. -/
theorem test_decodeTableWord : decodeTableWord 8 0x44 = some (.addw (.literal 0) (.literal 0)) := by decide +kernel

theorem test_withFetchWord_runs :
    leads ((start 0x400 0x8000 0 [] [] []).withFetchWord 8 0x2B) (fun t => t.ps == 1 && t.pc == 0x401) = true := by
  decide +kernel

/-- The host's question: an instruction placed right after reset is run first. -/
theorem test_withFetchWord_after_reset :
    (leads (State.reset.withFetchWord 8 0x2B) (fun t => t.ps == 1 && t.pc == 0x401) &&
      leads (State.reset.withFetchWord 8 0x44) (fun t => t.sp == 0x7FF8)) = true := by decide +kernel

/-! ### Witnesses: for each statement with hypotheses, states and operands that meet them -/

/-- R1 and R2 hold the operands. -/
def pair12 (a b ps : Word) : State := start 0x400 0x8000 ps [(1, a), (2, b)] [] []

/-- Two Longreals or Reals in R2, R3 and R4, R5. -/
def pair24 (a b : Word × Word) (ps : Word) : State :=
  start 0x400 0x8000 ps [(2, a.2), (3, a.1), (4, b.2), (5, b.1)] [] []

/-- The stack pointer at the limit, to be crossed by one push. -/
def atLimit : State := start 0x400 0x800 0 [(1, 5), (2, 7)] [] []

theorem canEnter_of {s : State} {n : Nat} {q : Word} (hr : s.romActive = false) (hd : s.during = []) (hn : n < 256)
    (h1 : (s.sp - 4).toNat + 4 ≤ memoryBytes) (h2 : (s.sp - 8).toNat + 4 ≤ memoryBytes)
    (hl : Ps.legal (s.entered n q).ps = true) (hp : Ps.rep (s.entered n q).ps = 0) : s.canEnter n q :=
  ⟨hr, hd, hn, h1, h2, hl, hp⟩

theorem witness_DecodingAnEncodingGivesTheInstruction :
    (Instr.addw (.register 1) (.immediate 7)).wellFormed = true ∧ (Instr.res 0xFE).wellFormed = true := by decide

theorem witness_EncodingADecodingGivesTheBytes :
    (∃ rest, decode [0x44#8, 0xC1#8, 0xC2#8, 0x07#8] = .ok (.addw (.register 1) (.register 2), rest)) ∧
    ∃ rest, decode [0x06#8, 0x07#8] = .ok (.res 0x06, rest) :=
  ⟨⟨_, rfl⟩, ⟨_, rfl⟩⟩

/-- Each way the step goes on, and a step that is refused: a byte of the instruction stored to, and a move within the
opcode fetch that the host has no window for. -/
theorem witness_StepRunsTheDecodedInstruction :
    let ready (s : State) (i : Instr) : Prop := s.stuck = false ∧ s.waiting = false ∧ s.nextInterrupt = none ∧
      ∃ rest, decode s.fetchBytes = .ok (i, rest)
    let stale (s : State) (n : Nat) : Prop := s.romActive = false ∧
      ∃ r ∈ s.dirty, r.1 < s.pc.toNat + n ∧ s.pc.toNat < r.1 + r.2
    let begun (s : State) (vs : List Visit) : State := { s with
      during := [vs], inhibit := false, traceDue := true, freeCount := s.freeCount + 1 }
    let plain := start 0x400 0x8000 0 [] [] [0x0B]
    let repeated := start 0x400 0x8000 0x54000000 [] [] [0x0B]
    let reserved := start 0x400 0x8000 0x54000000 [] [] [0x06]
    (ready plain .nop ∧ plain.schedule = [] ∧ Ps.rep plain.ps = 0 ∧ ¬stale plain 1) ∧
    (ready { plain with schedule := [.processor [] [[.move .tick]]] } .nop ∧
      (∃ u, fetchOpcode (begun plain [.move .tick]) = .ok () u) ∧
      fetchOpcode (begun plain [.move (.hostWrite 0 0)]) = .refused .noHostWindow) ∧
    (ready { plain with dirty := [(0x3FE, 3)] } .nop ∧ stale { plain with dirty := [(0x3FE, 3)] } 1 ∧
      ¬stale { plain with dirty := [(0x3FE, 2), (0x401, 4)] } 1) ∧
    (ready repeated .nop ∧ Ps.rep repeated.ps ≠ 0 ∧ isUnimplemented .nop = false ∧
      ∃ u, fetchOpcode (begun repeated [.move .tick]) = .ok () u) ∧
    (ready reserved (.res 0x06) ∧ Ps.rep reserved.ps ≠ 0 ∧ isUnimplemented (.res 0x06) = true) := by
  refine ⟨⟨⟨?_, ?_, ?_, ⟨_, rfl⟩⟩, ?_, ?_, ?_⟩, ⟨⟨?_, ?_, ?_, ⟨_, rfl⟩⟩, ⟨_, rfl⟩, rfl⟩, ⟨⟨?_, ?_, ?_, ⟨_, rfl⟩⟩, ?_, ?_⟩,
    ⟨⟨?_, ?_, ?_, ⟨_, rfl⟩⟩, ?_, ?_, ⟨_, rfl⟩⟩, ⟨?_, ?_, ?_, ⟨_, rfl⟩⟩, ?_, ?_⟩ <;> decide +kernel

/-- A control instruction; an instruction whose fields do not use the count register, one whose field does, one of the
floating-point unit; a first field that is illegal or cut off, and a second one after a first that is good, which uses
the count register or not; and states in which the repetition goes on and ends for each reason, with the fields
fetched. -/
theorem witness_RepeatPreTest :
    let i := Instr.cmpb (.autoinc 1) (.autoinc 2)
    let j := Instr.movw (.autoinc 4) (.register 5)
    let k := Instr.addr (.autoinc 1) (.register 2)
    let bad := Instr.movb (.reserved 0xE0) (.register 5)
    let good (f : Field) : Prop := modeIllegal f.access f.mode = false ∧ f.mode.isTruncated = false
    let at0 (ps n : Word) : State := start 0x400 0x8000 ps [(5, n)] [] []
    let skipped : State := { at0 0x54000000 0 with ps := Ps.withRep 0x54000000 0, during := [[.move .tick]] }
    let control (i : Instr) : Prop := (∃ m, i = .rep m ∨ i = .repz m ∨ i = .repnz m) ∨ (∃ m, i = .trap m) ∨
      i = .bkpt ∨ i = .reti ∨ i = .rett ∨ i = .wait
    (¬control i ∧ ¬control j ∧ ¬control k ∧ ¬control bad ∧ control .bkpt) ∧
    ((∀ f ∈ i.fields, good f) ∧ (∀ f ∈ j.fields, good f) ∧ ∀ f ∈ k.fields, good f) ∧
    Ps.repReg (at0 0x54000000 1).ps = 5 ∧ (1 : Reg) ≠ 5 ∧ (2 : Reg) ≠ 5 ∧
    (∃ f ∈ k.fields, f.type = .real ∨ f.type = .long) ∧ (∀ f ∈ i.fields, f.type = .byte) ∧
    (bad.fields = [⟨.byte, .r, .reserved 0xE0⟩, ⟨.byte, .w, .register 5⟩] ∧
      modeIllegal .r (.reserved 0xE0 : Mode .byte) = true) ∧
    (Ps.rep (at0 0x94000000 3).ps = 2 ∧ Ps.z (at0 0x94000000 3).ps = false) ∧
    (Ps.rep (at0 0xD4000004 3).ps = 3 ∧ Ps.z (at0 0xD4000004 3).ps = true) ∧
    (Ps.rep (at0 0x54000000 0).ps = 1 ∧ (at0 0x54000000 0).reg 5 = 0) ∧ (at0 0x54000000 1).reg 5 = 1 ∧
    (∃ u, fetchFields i.fields skipped = .ok () u) ∧ (∃ u, fetchFields bad.fields skipped = .ok () u) := by
  refine ⟨⟨?_, ?_, ?_, ?_, ?_⟩, ⟨?_, ?_, ?_⟩, ?_, ?_, ?_, ?_, ?_, ⟨?_, ?_⟩, ?_, ?_, ?_, ?_, ⟨_, rfl⟩, _, rfl⟩
  case refine_5 => exact .inr (.inr (.inl rfl))
  case refine_13 => intro f hf; fin_cases hf <;> rfl
  all_goals first | decide +kernel | simp

/-- Fields of which one faults: a floating-point instruction with an illegal first one; a first one cut off; a second
one that is illegal after one that uses the count register R5, and after one that does not; a second one cut off. -/
theorem witness_RepeatPreTest_faults :
    let good (f : Field) : Prop := modeIllegal f.access f.mode = false ∧ f.mode.isTruncated = false
    (∃ f fs, (Instr.addr (.reserved 0xE0) (.register 2)).fields = f :: fs ∧ ¬good f ∧ f.type = .real) ∧
    (∃ f fs, (Instr.movw (.truncated (some 0xF9)) (.truncated none)).fields = f :: fs ∧ ¬good f ∧
      modeIllegal f.access f.mode = false) ∧
    (∃ f g, (Instr.movw (.autoinc 5) (.literal 1)).fields = [f, g] ∧ good f ∧ ¬good g ∧
      modeIllegal g.access g.mode = true) ∧
    (∃ f g, (Instr.movw (.autoinc 1) (.literal 1)).fields = [f, g] ∧ good f ∧ ¬good g) ∧
    ∃ f g, (Instr.movw (.autoinc 1) (.truncated none)).fields = [f, g] ∧ good f ∧ ¬good g ∧
      modeIllegal g.access g.mode = false :=
  ⟨⟨_, _, rfl, by decide, rfl⟩, ⟨_, _, rfl, by decide, rfl⟩, ⟨_, _, rfl, by decide, by decide, rfl⟩,
    ⟨_, _, rfl, by decide, by decide⟩, _, _, rfl, by decide, by decide, rfl⟩

/-- The model number stands in bits 31 to 24 of CR. -/
theorem model_number_field (x : BitVec 8) : (x ++ 0#24 : Word).extractLsb' 24 8 = x := by
  revert x
  decide +kernel

theorem witness_EveryStepKeepsTheInvariant :
    ∃ s t : State, s.Inv ∧ step s = .next t := by
  refine ⟨{ State.reset with romActive := false, pc := 0x400, mem := [(0x400, 0x0B#8)] }, _, ?_, rfl⟩
  refine ⟨by decide, by decide, ?_, ?_, by decide, by decide, by decide, by decide, by decide, by decide, by simp [State.reset, State.resetNode]⟩
  · exact model_number_field _
  · simp only [State.reset, State.resetNode]; cases Config.isIoNode <;> decide

/-- Accesses at the end of memory, inside and outside; floating-point data stored whole and read whole, the second over
the first; moves before an atomic access, after byte 0 of one that is not, between the read and the write of ADDW, and
before fetches, one of them a store into the byte to be fetched. -/
theorem witness_MemoryAccesses :
    let s := pair12 1 2 0
    let moves : List Visit := [.move .tick, .move (.send 9)]
    let storing : State := { s with
      inPorts := (Vector.replicate 11 InPort.idle).set 10 { InPort.idle with addr := 0x900, count := 2, latch := some 7 } }
    ((0x1FFFC#32).toNat + 4 ≤ 0x20000 ∧ 0x20000 < (0x1FFFD#32).toNat + 4 ∧ s.mem.wf = true ∧ s.during = []) ∧
    (s.Plain ∧ (0x1FFF8#32).toNat % 8 = 0) ∧
    (∀ h ∈ ((s.store .float 2 8 1).store .float 6 8 2).written, h.kind = .agent ∨ (h.kind = .float ∧ h.len = 8)) ∧
    (∃ t, State.Moved moves { { s with during := [moves] } with during := [[]] } t) ∧
    ((0x1FFFC#32).toNat % 4 = 0 ∧ (0x901#32).toNat % 2 ≠ 0 ∧ ((0x902#32).toNat % 4 ≠ 0) ∧
      (∀ j, Visit.byte j ∉ moves) ∧ (∃ t, State.Moved moves { s with during := [[]] } t) ∧
      ∃ t, State.Moved moves { s with during := [[]], mem := s.mem.set (0x901 + 0) 7 } t) ∧
    (Ps.iv s.ps = false ∧ (0x900#32).toNat + 4 ≤ 0x20000 ∧ s.dirty = [] ∧
      ∃ t, State.Moved moves { { s with during := [[], [], [], [], moves] } with
        during := [[]], nextByte := s.nextByte + 6 } t) ∧
    (∃ t, State.Moved [.move (.storeLatch 10)] { storing with during := [[]], nextByte := 0x900 + 1 } t ∧
      t.romActive = false ∧ t.dirty = [(0x900, 2)]) ∧
    (∃ t, State.Moved [.move .tick] { s with during := [[]], nextByte := 0x900 + 1 } t ∧ t.dirty = []) ∧
    ∃ t u, fetchAccess storing.nextByte 1 { storing with during := [[.move (.storeLatch 10)], []] } = .ok () t ∧
      fetchAccess t.nextByte 1 t = .ok () u ∧ u.inputReady = 0x800003FF := by
  refine ⟨?_, ⟨nofun, by decide⟩, ?_, ⟨_, _, rfl, _, rfl, rfl⟩,
    ⟨by decide, by decide, by decide, by simp, ⟨_, _, rfl, _, rfl, rfl⟩, _, _, rfl, _, rfl, rfl⟩,
    ⟨by decide, by decide, rfl, _, _, rfl, _, rfl, rfl⟩, ⟨_, ⟨_, rfl, rfl⟩, ?_, ?_⟩, ⟨_, ⟨_, rfl, rfl⟩, ?_⟩, _, _, rfl, rfl, ?_⟩
  all_goals decide +kernel

theorem witness_RegisterOperands :
    (pair12 1 2 0).pairHazard = [] ∧ (pair12 1 2 0).pieceHazard = [] ∧ (15 : Reg) + 1 = 0 ∧
    OpType.long ≠ .address ∧ fetchAccess (pair12 1 2 0).nextByte 1 (pair12 1 2 0) = .ok () (pair12 1 2 0) :=
  ⟨rfl, rfl, rfl, nofun, rfl⟩

theorem witness_LiteralAndImmediateOperands :
    fetchAccess (pair12 1 2 0).nextByte 1 (pair12 1 2 0) = .ok () (pair12 1 2 0) ∧
    fetchField .r (.immediate 7 : Mode .word) (pair12 1 2 0) = .ok () (pair12 1 2 0) :=
  ⟨rfl, rfl⟩

theorem witness_SteppingModes :
    let s := start 0x400 0x8000 0 [(1, 0x20000), (2, 0x1FFFC), (3, 0x900)] [(0x900, [0xFC, 0xFF, 1, 0])] []
    OpType.word ≠ .address ∧ fetchAccess s.nextByte 1 s = .ok () s ∧
    (∃ w, readMem false (s.reg 1 - 4) 4 (s.setReg 1 (s.reg 1 - 4)) = .ok w (s.setReg 1 (s.reg 1 - 4))) ∧
    (∃ w, readMem false (s.reg 2) 4 s = .ok w s) ∧
    readMem false (s.reg 3) 4 s = .ok 0x1FFFC s ∧ (∃ w, readMem false (BitVec.ofNat 32 0x1FFFC) 4 s = .ok w s) :=
  ⟨by decide, rfl, ⟨_, rfl⟩, ⟨_, rfl⟩, rfl, ⟨_, rfl⟩⟩

theorem witness_EffectiveAddresses :
    let s := start 0x400 0x8000 0 [(1, 0x900)] [] []
    Access.r ≠ .reg ∧ (∃ p, readMem false (s.reg 1 + 0xFFFFFFF0) 4 s = .ok p s) ∧
    (∃ p, readMem false (s.pc + 0x1FBFC) 4 s = .ok p s) ∧ (∃ p, readMem false (0x8000#32 + 4) 4 s = .ok p s) ∧
    (∃ p, readMem false (0x1FFFC#32) 4 s = .ok p s) :=
  ⟨by decide, ⟨_, rfl⟩, ⟨_, rfl⟩, ⟨_, rfl⟩, ⟨_, rfl⟩⟩

/-- Two Words on the stack; the first push of an empty one. -/
theorem witness_StackOperands :
    let s := start 0x400 0x1FFF8 0 [] [(0x1FFF8, [1, 0, 0, 0, 2, 0, 0, 0])] []
    let popped : State := { s with sp := 0x1FFFC }
    fetchAccess s.nextByte 1 s = .ok () s ∧ fetchAccess popped.nextByte 1 popped = .ok () popped ∧
    readMem false s.sp 4 s = .ok 1 s ∧ readMem false popped.sp 4 popped = .ok 2 popped ∧
    (Mode.register 0 : Mode .word) ≠ .stk ∧ OpType.word ≠ .address ∧
    readMem false 0x20000 4 (start 0x400 0x20000 0 [] [] []) = .exc 11 (start 0x400 0x20000 0 [] [] []) :=
  ⟨rfl, rfl, rfl, rfl, by decide, by decide, rfl⟩

theorem witness_IllegalFieldsRaiseOperandError :
    modeIllegal .w (.literal 1 : Mode .word) = true ∧ modeIllegal .reg (.stk : Mode .address) = true ∧
    (Instr.jmp .stk).fields = [⟨.address, .a, .stk⟩] ∧ (pair12 0x900 0 0).during = [] ∧
    (Instr.movw (.autoinc 1) (.literal 1)).fields = [⟨.word, .r, .autoinc 1⟩, ⟨.word, .w, .literal 1⟩] ∧
    (∃ v s1 t, readField 0x8000 (.autoinc 1 : Mode .word) (pair12 0x900 0 0) = .ok v s1 ∧
      fetchAccess s1.nextByte 1 s1 = .ok () t) ∧
    ∃ a s1 t, addressOf 0x8000 (.autoinc 1) (pair12 0x900 0 0) = .ok a s1 ∧ fetchAccess s1.nextByte 1 s1 = .ok () t :=
  ⟨rfl, rfl, rfl, rfl, rfl, ⟨_, _, _, rfl, rfl⟩, _, _, _, rfl, rfl⟩

/-- Operands of ADD: a sum that fits; one that overflows with PS.IV and PS.IE 1. -/
theorem witness_AddResultsAndFlags :
    (∃ s2 s3, Modifies (.register 1 : Mode .word) (.register 2 : Mode .word) (pair12 1 2 0) 1 2 (.reg 2) s2 ∧
      writePlace .word (.reg 2) (3#32) s2 = .ok () s3 ∧ crossed 0x8000 s3.sp = false) ∧
    ∃ s2 s3, Modifies (.register 1 : Mode .byte) (.register 2 : Mode .byte) (pair12 0x7F 1 0x108000) 0x7F 1
        (.reg 2) s2 ∧
      writePlace .byte (.reg 2) (0x80#8) s2 = .ok () s3 ∧ crossed 0x8000 s3.sp = false ∧
      (Ps.iv 0x108000 && Ps.ie 0x108000) = true :=
  ⟨⟨_, _, ⟨_, rfl, rfl⟩, rfl, rfl⟩, _, _, ⟨_, rfl, rfl⟩, rfl, rfl, rfl⟩

theorem witness_SubtractResultsAndFlags :
    (∃ s2 s3, Modifies (.register 1 : Mode .half) (.register 2 : Mode .half) (pair12 1 2 0) 1 2 (.reg 2) s2 ∧
      writePlace .half (.reg 2) (1#16) s2 = .ok () s3 ∧ crossed 0x8000 s3.sp = false) ∧
    ∃ s2 s3, Modifies (.register 1 : Mode .byte) (.register 2 : Mode .byte) (pair12 1 0x80 0x108000) 1 0x80
        (.reg 2) s2 ∧
      writePlace .byte (.reg 2) (0x7F#8) s2 = .ok () s3 ∧ (Ps.iv 0x108000 && Ps.ie 0x108000) = true :=
  ⟨⟨_, _, ⟨_, rfl, rfl⟩, rfl, rfl⟩, _, _, ⟨_, rfl, rfl⟩, rfl, rfl⟩

/-- NEG of the most negative number overflows; NEGB R1,STK with SP at 2048 is Stack Overflow; CMP with a stack
operand. -/
theorem witness_NegateAndCompareFlags :
    (∃ s2 s3, Writes (.register 1 : Mode .byte) (.register 2 : Mode .byte) (pair12 0x80 0 0x108000) 0x80 (.reg 2) s2 ∧
      writePlace .byte (.reg 2) (0x80#8) s2 = .ok () s3 ∧ (Ps.iv 0x108000 && Ps.ie 0x108000) = true) ∧
    (∃ s2 s3, Writes (.register 1 : Mode .byte) (.stk : Mode .byte) atLimit 5 (.mem 0x7FF) s2 ∧
      writePlace .byte (.mem 0x7FF) (0xFB#8) s2 = .ok () s3 ∧ crossed 0x800 s3.sp = true ∧ atLimit.stuck = false) ∧
    ∃ s2, Compares (.stk : Mode .word) (.register 1 : Mode .word) (pair12 5 0 0) 0 5 s2 ∧
      crossed 0x8000 s2.sp = false :=
  ⟨⟨_, _, ⟨_, rfl, rfl⟩, rfl, rfl⟩, ⟨_, _, ⟨_, rfl, rfl⟩, rfl, rfl, rfl⟩, _, ⟨_, rfl, rfl⟩, rfl⟩

theorem witness_MultiplyResultsAndFlags :
    (∃ s2 s3, Modifies (.register 1 : Mode .word) (.register 2 : Mode .word) (pair12 3 5 0) 3 5 (.reg 2) s2 ∧
      writePlace .word (.reg 2) (15#32) s2 = .ok () s3 ∧ crossed 0x8000 s3.sp = false) ∧
    ∃ s2 s3, Modifies (.register 1 : Mode .byte) (.register 2 : Mode .byte) (pair12 16 16 0x108000) 16 16
        (.reg 2) s2 ∧
      writePlace .byte (.reg 2) (0#8) s2 = .ok () s3 ∧ (Ps.iv 0x108000 && Ps.ie 0x108000) = true :=
  ⟨⟨_, _, ⟨_, rfl, rfl⟩, rfl, rfl⟩, _, _, ⟨_, rfl, rfl⟩, rfl, rfl⟩

/-- A quotient, the special quotient, a zero divisor. -/
theorem witness_DivideResultsAndFlags :
    (∃ s2 s3, Modifies (.register 1 : Mode .word) (.register 2 : Mode .word) (pair12 2 7 0) 2 7 (.reg 2) s2 ∧
      writePlace .word (.reg 2) (3#32) s2 = .ok () s3 ∧ crossed 0x8000 s3.sp = false) ∧
    (∃ s2 s3, Modifies (.register 1 : Mode .byte) (.register 2 : Mode .byte) (pair12 0xFF 0x80 0x108000) 0xFF 0x80
        (.reg 2) s2 ∧ writePlace .byte (.reg 2) (0x80#8) s2 = .ok () s3 ∧
        (Ps.iv 0x108000 && Ps.ie 0x108000) = true) ∧
    ∃ s2, Modifies (.register 1 : Mode .half) (.register 2 : Mode .half) (pair12 0 7 0) 0 7 (.reg 2) s2 ∧
      crossed 0x8000 s2.sp = false :=
  ⟨⟨_, _, ⟨_, rfl, rfl⟩, rfl, rfl⟩, ⟨_, _, ⟨_, rfl, rfl⟩, rfl, rfl⟩, _, ⟨_, rfl, rfl⟩, rfl⟩

/-- Valid digits; a digit above 9. -/
theorem witness_DecimalResultsAndFlags :
    (∃ s2 s3, Modifies (.register 1 : Mode .byte) (.register 2 : Mode .byte) (pair12 0x99 0x99 0) 0x99 0x99
        (.reg 2) s2 ∧ writePlace .byte (.reg 2) (0x98#8) s2 = .ok () s3 ∧ crossed 0x8000 s3.sp = false) ∧
    ∃ s2 s3, Modifies (.register 1 : Mode .byte) (.register 2 : Mode .byte) (pair12 0x0A 0x99 0) 0x0A 0x99
        (.reg 2) s2 ∧ writePlace .byte (.reg 2) (Config.freeDecimal 0) s2 = .ok () s3 ∧
        crossed 0x8000 s3.sp = false :=
  ⟨⟨_, _, ⟨_, rfl, rfl⟩, rfl, rfl⟩, _, _, ⟨_, rfl, rfl⟩, rfl, rfl⟩

theorem witness_LogicalResultsAndFlags :
    (∃ s2 s3, Modifies (.register 1 : Mode .word) (.regIndirect 2 : Mode .word) (pair12 3 0x1FFFC 0) 3 0
        (.mem 0x1FFFC) s2 ∧ writePlace .word (.mem 0x1FFFC) (3#32) s2 = .ok () s3 ∧ crossed 0x8000 s3.sp = false) ∧
    (∃ s2 s3, Writes (.register 1 : Mode .half) (.register 2 : Mode .half) (pair12 3 0 0) 3 (.reg 2) s2 ∧
      writePlace .half (.reg 2) (0xFFFC#16) s2 = .ok () s3 ∧ crossed 0x8000 s3.sp = false) ∧
    ∃ s2, Compares (.literal 1 : Mode .byte) (.literal 3 : Mode .byte) (pair12 0 0 0) 1 3 s2 ∧
      crossed 0x8000 s2.sp = false :=
  ⟨⟨_, _, ⟨_, rfl, rfl⟩, rfl, rfl⟩, ⟨_, _, ⟨_, rfl, rfl⟩, rfl, rfl⟩, _, ⟨_, rfl, rfl⟩, rfl⟩

/-- A shift; a left arithmetic shift that overflows. -/
theorem witness_ShiftAndRotateResultsAndFlags :
    (∃ s2 s3, Modifies (.literal (-1) : Mode .byte) (.register 2 : Mode .word) (pair12 0 6 0) 0xFF 6 (.reg 2) s2 ∧
      writePlace .word (.reg 2) (3#32) s2 = .ok () s3 ∧ crossed 0x8000 s3.sp = false) ∧
    ∃ s2 s3, Modifies (.literal 1 : Mode .byte) (.register 2 : Mode .byte) (pair12 0 0x40 0x108000) 1 0x40 (.reg 2) s2 ∧
      writePlace .byte (.reg 2) (0x80#8) s2 = .ok () s3 ∧ (Ps.iv 0x108000 && Ps.ie 0x108000) = true :=
  ⟨⟨_, _, ⟨_, rfl, rfl⟩, rfl, rfl⟩, _, _, ⟨_, rfl, rfl⟩, rfl, rfl⟩

theorem witness_FindFirstOneResultsAndFlags :
    ∃ s2 s3, Writes (.register 1 : Mode .word) (.register 2 : Mode .byte) (pair12 0x80000000 0 0) 0x80000000
        (.reg 2) s2 ∧ writePlace .byte (.reg 2) (31#8) s2 = .ok () s3 ∧ crossed 0x8000 s3.sp = false :=
  ⟨_, _, ⟨_, rfl, rfl⟩, rfl, rfl⟩

/-- A move between registers; MOVW R1,STK with SP at 2048. -/
theorem witness_MovesCopyAndKeepFlags :
    (∃ s2 s3, Writes (.register 1 : Mode .word) (.register 2 : Mode .word) (pair12 3 0 0) 3 (.reg 2) s2 ∧
      writePlace .word (.reg 2) (3#32) { s2 with fr := (pair12 3 0 0).fr } = .ok () s3 ∧
      crossed 0x8000 s3.sp = false) ∧
    ∃ s2 s3, Writes (.register 1 : Mode .word) (.stk : Mode .word) atLimit 5 (.mem 0x7FC) s2 ∧
      writePlace .word (.mem 0x7FC) (5#32) { s2 with fr := atLimit.fr } = .ok () s3 ∧
      crossed 0x800 s3.sp = true ∧ atLimit.stuck = false :=
  ⟨⟨_, _, ⟨_, rfl, rfl⟩, rfl, rfl⟩, _, _, ⟨_, rfl, rfl⟩, rfl, rfl, rfl⟩

theorem witness_MoveAddressAndAddressOperands :
    (∃ s1 s2 s3, addressOf 0x8000 (.literal 4) (pair12 0 0 0) = .ok 0x404 s1 ∧
      openWritten 0x8000 (.stk : Mode .word) s1 = .ok (.mem 0x7FFC) s2 ∧
      writePlace .word (.mem 0x7FFC) (0x404#32) s2 = .ok () s3 ∧ crossed 0x8000 s3.sp = false) ∧
    (∃ p, readMem false ((pair12 0x900 0 0).reg 1) 4 (pair12 0x900 0 0) = .ok p (pair12 0x900 0 0)) ∧
    (∃ p, readMem false (0x1FFFC#32) 4 (pair12 0 0 0) = .ok p (pair12 0 0 0)) ∧
    (∀ m : Mode .address, fetchField .a m (pair12 0 0 0) = .ok () (pair12 0 0 0)) :=
  ⟨⟨_, _, _, rfl, rfl, rfl, rfl⟩, ⟨_, rfl⟩, ⟨_, rfl⟩, fun m => fetchField_of_quiet .a m rfl⟩

/-- A value that fits and one that does not. -/
theorem witness_IntegerConversions :
    (∃ s2 s3, Writes (.register 1 : Mode .byte) (.register 2 : Mode .word) (pair12 0x80 0 0) 0x80 (.reg 2) s2 ∧
      writePlace .word (.reg 2) (0xFFFFFF80#32) s2 = .ok () s3 ∧ crossed 0x8000 s3.sp = false) ∧
    ∃ s2 s3, Writes (.register 1 : Mode .word) (.register 2 : Mode .byte) (pair12 0x100 0 0x108000) 0x100 (.reg 2) s2 ∧
      writePlace .byte (.reg 2) (0#8) s2 = .ok () s3 ∧ (Ps.iv 0x108000 && Ps.ie 0x108000) = true :=
  ⟨⟨_, _, ⟨_, rfl, rfl⟩, rfl, rfl⟩, _, _, ⟨_, rfl, rfl⟩, rfl, rfl⟩

theorem witness_IntegerToFloatIsExact :
    ∃ s2 s3, Writes (.register 1 : Mode .word) (.register 2 : Mode .long) (pair12 0x80000000 0 0) 0x80000000
        (.reg 2) s2 ∧
      writePlace .long (.reg 2) (0xC1E0000000000000#64) { s2 with fr := Config.freeFaultBits 0 } = .ok () s3 ∧
      crossed 0x8000 s3.sp = false :=
  ⟨_, _, ⟨_, rfl, rfl⟩, rfl, rfl⟩

/-- Operands of CVRL and CVLR, and patterns of each class. -/
theorem witness_FloatToFloatConversions :
    (∃ s2 s3, Writes (.register 1 : Mode .real) (.register 2 : Mode .long) (pair12 0x3FC00000 0 0) 0x3FC00000
        (.reg 2) s2 ∧ writePlace .long (.reg 2) (0x3FF8000000000000#64) s2 = .ok () s3) ∧
    (∃ s2 s3, Writes (.register 2 : Mode .long) (.register 1 : Mode .real) (pair24 (0x3FF00000, 0) (0, 0) 0)
        0x3FF0000000000000 (.reg 1) s2 ∧ writePlace .real (.reg 1) (0x3F800000#32) s2 = .ok () s3) ∧
    ((fpFormat .real).isNan 0x7FC00000 = true ∧ (fpFormat .real).isInf 0xFF800000 = true ∧
      (fpFormat .real).isZero 0x80000000 = true ∧ (fpFormat .real).isFinite 0x3FC00000 = true ∧
      (fpFormat .real).isZero 0x3FC00000 = false) :=
  ⟨⟨_, _, ⟨_, rfl, rfl⟩, rfl⟩, ⟨_, _, ⟨_, rfl, rfl⟩, rfl⟩, by decide +kernel⟩

/-- Operands whose result is delivered, and each way in which an exception ends the instruction. -/
theorem witness_FloatingPointInstructionsDeliverTheirResult :
    (∃ s2, Modifies (.register 2 : Mode .real) (.register 4 : Mode .real)
      (pair24 (0, 0x3F800000) (0, 0x40000000) 0) 0x3F800000 0x40000000 (.reg 4) s2 ∧
      (∃ s3, writePlace .real (.reg 4) (0x40400000#32) s2 = .ok () s3 ∧ crossed 0x8000 s3.sp = false)) ∧
    (fpFormat .real).add 0 0 0x3F800000 0x40000000 = .value 0x40400000 false false false false false ∧
    (fpFormat .real).add 0 0 0x7FC00000 0 = .invalid ∧ (fpFormat .real).div 0 0 0 0x3F800000 = .zeroDivide ∧
    (fpFormat .real).mul 0 0 0x7F000000 0x40000000 = .value 0x40000000 false false false false true ∧
    (fpFormat .real).mul 0 0 0x00800000 0x3F000000 = .value 0x3F800000 false false false true false ∧
    (fpFormat .real).div 0 0 0x40400000 0x3F800000 = .value 0x3EAAAAAB false false true false false ∧
    (Ps.iix 0x100400 && Ps.ie 0x100400) = true :=
  ⟨⟨_, ⟨_, rfl, rfl⟩, _, rfl, rfl⟩, by decide +kernel, by decide +kernel, by decide +kernel, by decide +kernel,
    by decide +kernel, by decide +kernel, rfl⟩

theorem witness_RoundingIsCorrect : 0 < 1 ∧ 0 < 3 := by decide

/-- 1 and 2 are finite, with a sum, difference, product and quotient that are not zero. -/
theorem witness_FiniteArithmeticIsExactThenRounded :
    let f := fpFormat .real
    f.isFinite 0x3F800000 = true ∧ f.isFinite 0x40000000 = true ∧ f.isZero 0x3F800000 = false ∧
    f.isZero 0x40000000 = false ∧ f.val 0x3F800000 + f.val 0x40000000 ≠ 0 ∧
    f.val 0x40000000 - f.val 0x3F800000 ≠ 0 ∧ f.val 0x3F800000 - f.val 0x40000000 ≠ 0 ∧
    f.val 0x3F800000 * f.val 0x40000000 ≠ 0 ∧ f.val 0x40000000 / f.val 0x3F800000 ≠ 0 ∧
    f.val 0x3F800000 / f.val 0x40000000 ≠ 0 := by decide +kernel

/-- Patterns of each class, and two numbers with opposite and with equal values. -/
theorem witness_FloatingPointSpecialCases :
    let f := fpFormat .real
    f.isNan 0x7F800001 = true ∧ f.isInf 0x7F800000 = true ∧ f.isInf 0xFF800000 = true ∧
    f.isFinite 0x7F7FFFFF = true ∧ f.isFinite 0 = true ∧ f.isZero 0x80000000 = true ∧ f.isZero 0 = true ∧
    f.isZero 0x3F800000 = false ∧ f.val 0x3F800000 + f.val 0xBF800000 = 0 ∧
    f.val 0x3F800000 - f.val 0x3F800000 = 0 := by decide +kernel

theorem witness_SquareRootIsCorrectlyRounded :
    let f := fpFormat .long
    f.isNan 0x7FF0000000000001 = true ∧ f.sign 0xBFF0000000000000 = true ∧ f.isZero 0xBFF0000000000000 = false ∧
    f.isZero 0x8000000000000000 = true ∧ f.isInf 0x7FF0000000000000 = true ∧
    f.sign 0x7FF0000000000000 = false ∧ f.isFinite 0x4000000000000000 = true ∧
    f.isZero 0x4000000000000000 = false ∧ f.sign 0x4000000000000000 = false := by decide +kernel

/-- 3 rem 2 is not zero, 2 rem 2 is: quotients of one bit, which any REM_STEP develops. -/
theorem witness_FloatingPointRemainderIsExact :
    let f := fpFormat .real
    (f.isZero 0 = true ∧ f.isInf 0x7F800000 = true ∧ f.isFinite 0x40400000 = true ∧ f.isFinite 0x40000000 = true ∧
      f.isZero 0x40000000 = false ∧ f.isNan 0x7F800001 = true ∧
      ⌊f.val 0x40400000 / f.val 0x40000000⌋ = 1 ∧ ⌊f.val 0x40000000 / f.val 0x40000000⌋ = 1 ∧
      f.val 0x40400000 - 1 * f.val 0x40000000 ≠ 0 ∧ f.val 0x40000000 - 1 * f.val 0x40000000 = 0) ∧
    (match Config.remStep with
      | none => 1
      | some j => 1 / 2 ^ (Nat.log2 1 - j) * 2 ^ (Nat.log2 1 - j)) = 1 := by
  refine ⟨by decide +kernel, ?_⟩
  have h : Nat.log2 1 = 0 := by decide
  cases Config.remStep <;> simp [h]

theorem witness_NegateAndCopySign :
    (∃ s2, Writes (.register 1 : Mode .real) (.register 2 : Mode .real) (pair12 0x3F800000 0 0) 0x3F800000 (.reg 2) s2 ∧
      ∃ s3, writePlace .real (.reg 2) (0xBF800000#32) s2 = .ok () s3 ∧ crossed 0x8000 s3.sp = false) ∧
    ∃ s2, Modifies (.register 2 : Mode .long) (.register 4 : Mode .long) (pair24 (0xC0000000, 0) (0x40140000, 0) 0)
        0xC000000000000000 0x4014000000000000 (.reg 4) s2 ∧
      ∃ s3, writePlace .long (.reg 4) (0xC014000000000000#64) s2 = .ok () s3 ∧ crossed 0x8000 s3.sp = false :=
  ⟨⟨_, ⟨_, rfl, rfl⟩, _, rfl, rfl⟩, _, ⟨_, rfl, rfl⟩, _, rfl, rfl⟩

theorem witness_FloatingPointCompareFlags :
    ∃ s2, Compares (.register 1 : Mode .real) (.register 2 : Mode .real) (pair12 0x3F800000 0x7FC00000 0) 0x3F800000
        0x7FC00000 s2 ∧ crossed 0x8000 s2.sp = false :=
  ⟨_, ⟨_, rfl, rfl⟩, rfl⟩

/-- A branch, and a signed branch that finds U = 1. -/
theorem witness_ConditionalBranches :
    (∃ s1, addressOf 0x8000 (.literal 8) { pair12 0 0 4 with ps := Ps.withRep 4 0 } = .ok 0x408 s1 ∧
      crossed 0x8000 s1.sp = false) ∧
    (true && Ps.u (pair12 0 0 0x10).ps) = true ∧ (true && Ps.u (pair12 0 0 0).ps) = false :=
  ⟨⟨_, rfl, rfl⟩, rfl, rfl⟩

/-- CALL with room on the stack, and with SP at 2048. -/
theorem witness_JumpAndCall :
    (∃ s1 s2, addressOf 0x8000 (.wordDirect 0x600) { pair12 0 0 0 with ps := Ps.withRep 0 0 } = .ok 0x600 s1 ∧
      writeMem false (0x8000 - 4) 4 0x406 { s1 with sp := 0x8000 - 4 } = .ok () s2 ∧
      crossed 0x8000 s2.sp = false) ∧
    ∃ s2, writeMem false (atLimit.sp - 4) 4 0x406 { atLimit with sp := atLimit.sp - 4 } = .ok () s2 ∧
      crossed atLimit.sp s2.sp = true ∧ atLimit.stuck = false :=
  ⟨⟨_, _, rfl, rfl, rfl⟩, _, rfl, rfl, rfl⟩

/-- RETP with an operand, and one that takes SP below 2048. -/
theorem witness_ReturnsPopTheAddress :
    (∃ w s1, readMem false 0x1FFFC 4 (start 0x400 0x1FFFC 0 [] [] []) = .ok w s1 ∧
      crossed 0x1FFFC (0x1FFFC + 4) = false) ∧
    (∃ s1 w s2, readField 0x8000 (.literal 8 : Mode .word) { pair12 0 0 0 with ps := Ps.withRep 0 0 } = .ok 8 s1 ∧
      readMem false s1.sp 4 s1 = .ok w s2 ∧ crossed 0x8000 (s1.sp + 4 + 8) = false) ∧
    ∃ s1 w s2, readField 0x800 (.literal (-32) : Mode .word) { atLimit with ps := Ps.withRep 0 0 } = .ok 0xFFFFFFE0 s1 ∧
      readMem false s1.sp 4 s1 = .ok w s2 ∧ crossed 0x800 (s1.sp + 4 + 0xFFFFFFE0) = true :=
  ⟨⟨_, _, rfl, by decide⟩, ⟨_, _, _, rfl, rfl, by decide⟩, _, _, _, rfl, rfl, by decide⟩

theorem witness_RepeatPrefixesSetTheMode :
    (∀ r, (Mode.literal 5 : Mode .address) ≠ .register r) ∧ (Mode.literal 5 : Mode .address) ≠ .truncated none ∧
    fetchAccess (pair12 0 0 0).nextByte 1 (pair12 0 0 0) = .ok () (pair12 0 0 0) :=
  ⟨nofun, nofun, rfl⟩

/-- Each register number at the edges of its clause; values of PS of each clause. -/
theorem witness_LoadProcessorRegister :
    (∃ s2, Values (.register 1 : Mode .word) (.literal 0 : Mode .byte) (pair12 0x7FF 0 0) 0x7FF 0 s2) ∧
    (∃ s2, Values (.register 1 : Mode .word) (.immediate 0xFF : Mode .byte) (pair12 5 0 0) 5 0xFF s2 ∧
      crossed 0x8000 s2.sp = false) ∧
    (∃ s2, Values (.register 1 : Mode .word) (.literal 1 : Mode .byte) (pair12 0x00100000 0 0) 0x00100000 1 s2 ∧
      crossed 0x8000 s2.sp = false) ∧
    Ps.rep (pair12 0 0 0x40000000).ps ≠ 0 ∧ (0x800#32) &&& 0x00C07800 ≠ 0 ∧
    (0x40000000#32) &&& 0x00C07800 = 0 ∧ Ps.rep 0x40000000 ≠ 0 :=
  ⟨⟨_, _, rfl, rfl⟩, ⟨_, ⟨_, rfl, rfl⟩, rfl⟩, ⟨_, ⟨_, rfl, rfl⟩, rfl⟩, by decide, by decide, by decide, by decide⟩

/-- IO as stored by STPR; SP as STPR finds it, with a first field on the stack. -/
theorem witness_StoreProcessorRegister :
    (∃ s1 s2 s3, readField 0x8000 (.literal 12 : Mode .byte) (pair12 0 0 0) = .ok 12 s1 ∧
      openWritten 0x8000 (.register 2 : Mode .word) s1 = .ok (.reg 2) s2 ∧
      writePlace .word (.reg 2) ({ s2 with sp := 0x8000 }.processorRegister 12) s2 = .ok () s3 ∧
      crossed 0x8000 s3.sp = false) ∧
    (∃ s1 s2 s3, readField 0x8000 (.stk : Mode .byte) (pair12 0 0 0) = .ok 0 s1 ∧ s1.sp = 0x8001 ∧
      openWritten 0x8000 (.register 2 : Mode .word) s1 = .ok (.reg 2) s2 ∧
      writePlace .word (.reg 2) ({ s2 with sp := 0x8000 }.processorRegister 0) s2 = .ok () s3) ∧
    ((10 : PortIx).val = 10 ∧ (31 = 31)) ∧ ((9 : PortIx).val < 10 ∧ 9 = (9 : PortIx).val) ∧ (10 ≤ 30 ∧ 30 ≠ 31) :=
  ⟨⟨_, _, _, rfl, rfl, rfl, rfl⟩, ⟨_, _, _, rfl, rfl, rfl, rfl⟩, by decide, by decide, by decide⟩

/-- TRAP and BKPT with room on the stack, for the last vector, and with SP at 2048. -/
theorem witness_TrapAndBreakpointEnterTheirVector :
    (∃ s1, readField 0x8000 (.immediate 0xFF : Mode .byte) (pair12 0 0 0) = .ok 0xFF s1 ∧ s1.canEnter 255 0x403 ∧
      crossed 0x8000 (s1.sp - 8) = false) ∧
    (pair12 0 0 0).canEnter 2 0x401 ∧ (pair12 0 0 0).waiting = false ∧
    atLimit.canEnter 2 0x401 ∧ crossed atLimit.sp (atLimit.sp - 8) = true ∧ atLimit.stuck = false :=
  ⟨⟨_, rfl, canEnter_of rfl rfl (by decide) (by decide) (by decide) (by decide +kernel) (by decide +kernel), by decide⟩,
    canEnter_of rfl rfl (by decide) (by decide) (by decide) (by decide +kernel) (by decide +kernel), rfl,
    canEnter_of rfl rfl (by decide) (by decide) (by decide) (by decide +kernel) (by decide +kernel), by decide, rfl⟩

/-- A popped PS with a reserved bit, and one without. -/
theorem witness_ReturnsFromInterrupt :
    let s (b : Byte) := start 0x400 0x1FFF8 0 [] [(0x1FFFC, [0, b, 0x10, 0])] []
    let t (b : Byte) : State := { s b with sp := 0x1FFFC }
    readMem false 0x1FFF8 4 (s 0) = .ok 0 (s 0) ∧ readMem false 0x1FFFC 4 (t 0) = .ok 0x100000 (t 0) ∧
    readMem false 0x1FFF8 4 (s 8) = .ok 0 (s 8) ∧ readMem false 0x1FFFC 4 (t 8) = .ok 0x100800 (t 8) ∧
    (0x100800#32) &&& 0x00C07800#32 ≠ 0 ∧ (0x100000#32) &&& 0x00C07800#32 = 0 ∧
    crossed (s 0).sp ((s 0).sp + 8) = false :=
  ⟨rfl, rfl, rfl, rfl, by decide, by decide, by decide⟩

theorem witness_ReturnUndoesEntry :
    (pair12 0 0 0x54000001).canEnter 13 0x400 ∧
    Ps.legal (pair12 0 0 0x54000001).ps = true ∧ (pair12 0 0 0x54000001).sp.toNat ≤ memoryBytes ∧
    8 ≤ (pair12 0 0 0x54000001).sp.toNat :=
  ⟨canEnter_of rfl rfl (by decide) (by decide) (by decide) (by decide +kernel) (by decide +kernel), by decide, by decide, by decide⟩

theorem witness_WaitIdlesAndResetClearsThePorts :
    let s : State := { pair12 0 0 0 with waiting := true }
    let t : State := { s with schedule := [.processor [.clean, .corrected] [[.move .tick]], .move .tick] }
    (s.schedule = [] ∧ s.stuck = false ∧ s.nextInterrupt = none ∧ s.waiting = true) ∧
    t.schedule = .processor [.clean, .corrected] [[.move .tick]] :: [.move .tick] ∧ t.stuck = false ∧ t.nextInterrupt = none ∧
      t.waiting = true := by decide +kernel

theorem witness_ReservedOpcodesEnterInterruptTen :
    (pair12 0 0 0).canEnter 10 (pair12 0 0 0).pc ∧ (pair12 0 0 0).waiting = false ∧
    crossed (pair12 0 0 0).sp ((pair12 0 0 0).sp - 8) = false :=
  ⟨canEnter_of rfl rfl (by decide) (by decide) (by decide) (by decide +kernel) (by decide +kernel), rfl, by decide⟩

/-- Some ports in use: input 31 and output 41. -/
def busyPorts : State :=
  { pair12 0 0 0 with
    inPorts := (Vector.replicate 11 InPort.idle).set 10 { InPort.idle with addr := 8, count := 2, latch := some 0x1234 }
    outPorts := (Vector.replicate 11 OutPort.idle).set 9 { addr := 8, count := 2, link := none } }

/-- Port numbers at the edges of each range, idle and in use. -/
theorem witness_PointerAndCountLoads :
    (∃ s2, Values (.literal 5 : Mode .word) (.immediate 9 : Mode .byte) busyPorts 5 9 s2 ∧
      (s2.inPorts.get 9).count = 0 ∧ crossed 0x8000 s2.sp = false) ∧
    (∃ s2, Values (.literal 5 : Mode .word) (.immediate 31 : Mode .byte) busyPorts 5 31 s2 ∧
      (s2.inPorts.get 10).count ≠ 0) ∧
    (∃ s2, Values (.literal 5 : Mode .word) (.immediate 41 : Mode .byte) busyPorts 5 41 s2 ∧
      (s2.outPorts.get 9).count ≠ 0) ∧
    (∃ s2, Values (.literal 5 : Mode .word) (.immediate 63 : Mode .byte) busyPorts 5 63 s2 ∧
      (s2.outPorts.get 10).count = 0) ∧
    (∃ s2, Values (.literal 5 : Mode .word) (.immediate 10 : Mode .byte) busyPorts 5 10 s2) ∧
    ¬((10 : Byte).toNat < 10 ∨ (10 : Byte).toNat = 31 ∨ (32 ≤ (10 : Byte).toNat ∧ (10 : Byte).toNat < 42) ∨
      (10 : Byte).toNat = 63) ∧
    ¬((42 : Byte).toNat < 10 ∨ (42 : Byte).toNat = 31 ∨ (32 ≤ (42 : Byte).toNat ∧ (42 : Byte).toNat < 42) ∨
      (42 : Byte).toNat = 63) :=
  ⟨⟨_, ⟨_, rfl, rfl⟩, by decide, rfl⟩, ⟨_, ⟨_, rfl, rfl⟩, by decide⟩, ⟨_, ⟨_, rfl, rfl⟩, by decide⟩,
    ⟨_, ⟨_, rfl, rfl⟩, by decide⟩, ⟨_, _, rfl, rfl⟩, by decide, by decide⟩

/-- A mask with a bit of no port; a running broadcast, with a count and an empty mask and with count 0; busy ports;
unequal addresses; and masks for which BPTR and BCNT go on. -/
theorem witness_BroadcastLoads :
    let idle : State := pair12 6 0x80000003 0
    let running : State := { idle with broadcast := some 2 }
    let unequal : State := { idle with
      outPorts := (Vector.replicate 11 OutPort.idle).set 0 { addr := 8, count := 0, link := none } }
    (∃ s2, Values (.register 1 : Mode .word) (.register 2 : Mode .word) idle 6 0x80000003 s2 ∧
      (0x80000003#32) &&& 0x7FFFFC00 = 0 ∧ s2.broadcast = none ∧ crossed 0x8000 s2.sp = false ∧
      (∀ p, (s2.outPorts.get p).count = 0) ∧ ∀ p q, (s2.outPorts.get p).addr = (s2.outPorts.get q).addr) ∧
    (∃ s2, Values (.register 1 : Mode .word) (.literal 0 : Mode .word) running 6 0 s2 ∧ s2.broadcast ≠ none ∧
      (0#32) &&& 0x7FFFFC00 = 0) ∧
    (∃ s2, Values (.literal 1 : Mode .word) (.literal 1 : Mode .word) running 1 1 s2 ∧ (1#32) &&& 0xFFFFFFFE = 0 ∧
      s2.broadcast ≠ none) ∧
    (0x00000400#32) &&& 0x7FFFFC00 ≠ 0 ∧ running.broadcast = some 2 ∧ (2#32) &&& 0x80000003 ≠ 0 ∧
    (busyPorts.outPorts.get 9).count ≠ 0 ∧ (6#32) &&& 0xFFFFFFFE ≠ 0 ∧
    (unequal.outPorts.get 0).addr ≠ (unequal.outPorts.get 1).addr :=
  ⟨⟨_, ⟨_, rfl, rfl⟩, by decide, by decide, by decide, by decide, by decide⟩, ⟨_, ⟨_, rfl, rfl⟩, nofun, rfl⟩,
    ⟨_, ⟨_, rfl, rfl⟩, rfl, nofun⟩, by decide, by decide, by decide, by decide, by decide, by decide⟩

/-- An array-board node whose shadow ROM runs at this address, with this register 1. -/
def booting (pc r1 : Word) (e : Event) : State :=
  { State.resetNode false with pc := pc, regs := (Vector.replicate 16 0).set 1 r1, schedule := [e] }

/-- When the boot protocol allows an arrival at port p while the ROM runs (70 R485). -/
abbrev bootAllows (s : State) (p : PortIx) (bit : Nat) (h : Half) : Prop :=
  (∀ r, s.bootPort = some r → r = p) ∧
  (43 ≤ s.pc.toNat → s.regs.get 1 = BitVec.ofNat 32 bit) ∧
  (∀ r, r ≠ p → (s.inPorts.get r).latch = none ∧ (s.inPorts.get r).count = 0) ∧
  ((s.inPorts.get p).latch ≠ none → 80 ≤ s.pc.toNat) ∧
  ((s.inPorts.get p).latch = none → s.pc.toNat ≤ 46 → 1018 ≤ h.toNat ∧ h.getLsbD 0 = false)

/-- An output port that can send and its link; an arrival at an idle port and at a busy one, and while the ROM runs,
allowed and not; a full latch in use, before the end and at the end of its transfer; the host inside and outside its
window, and too early; the reset pin. -/
theorem witness_AgentsMoveHalfwordsAndTime :
    let at0 (e : Event) : State := { busyPorts with schedule := [e] }
    let host (io rom : Bool) (pc : Word) : State :=
      { State.resetNode io with romActive := rom, pc := pc, schedule := [.move (.hostWrite 1 0xFFFF)] }
    let arrival : Event := .move (.arrive 3 1018 false)
    ((busyPorts.outPorts.get 9).count ≠ 0 ∧ (busyPorts.outPorts.get 9).link = none ∧ busyPorts.broadcast = none ∧
      (at0 (.move (.send 9))).schedule = .move (.send 9) :: [] ∧
      (at0 (.move (.linkTaken 9))).schedule = .move (.linkTaken 9) :: []) ∧
    ((at0 (.move (.arrive 0 7 true))).schedule = .move (.arrive 0 7 true) :: [] ∧
      (busyPorts.inPorts.get 0).count = 0 ∧ (busyPorts.inPorts.get 10).count = 2 ∧ busyPorts.romActive = false) ∧
    ((booting 46 3 arrival).romActive = true ∧ (booting 46 3 arrival).pi.getLsbD 31 = false ∧
      (booting 46 3 arrival).stuck = false ∧ (booting 46 3 arrival).schedule = arrival :: [] ∧
      bootAllows (booting 46 3 arrival) 3 3 1018 ∧ bootAllows (booting 42 9 arrival) 3 3 1018 ∧
      ¬bootAllows (booting 43 9 arrival) 3 3 1018 ∧ ¬bootAllows (booting 46 3 arrival) 3 3 1017 ∧
      ¬bootAllows (booting 46 3 arrival) 3 3 1019 ∧
      bootAllows { booting 46 3 arrival with bootPort := some 3 } 3 3 1018 ∧
      ¬bootAllows { booting 46 3 arrival with bootPort := some 5 } 3 3 1018) ∧
    ((at0 (.move (.storeLatch 10))).schedule = .move (.storeLatch 10) :: [] ∧
      (busyPorts.inPorts.get 10).latch = some 0x1234) ∧
    (at0 (.move .tick)).schedule = .move .tick :: [] ∧
    ((host true false 0x400).pi.getLsbD 31 = true ∧ (host false false 0x400).pi.getLsbD 31 = false ∧
      (host true true 28).pc.toNat < 29 ∧ (1#32).toNat < 2 ∧ ¬(2#32).toNat < 2 ∧ ¬(host true true 29).pc.toNat < 29 ∧
      (host true true 28).stuck = false ∧ (host true true 28).schedule = .move (.hostWrite 1 0xFFFF) :: [] ∧
      (0x1FFFF#32).toNat < 0x20000 ∧ ¬(0x20000#32).toNat < 0x20000) ∧
    (at0 .resetPin).schedule = .resetPin :: [] := by
  refine ⟨?_, ?_, ⟨?_, ?_, ?_, ?_, ?_, ?_, ?_, ?_, ?_, ?_, ?_⟩, ?_, ?_, ?_, ?_⟩ <;> decide +kernel

/-- Ports 32 and 63, selected and alike. -/
theorem witness_BroadcastMovesAllPortsTogether :
    let ready : OutPort := { addr := 8, count := 2, link := none }
    let s : State := { pair12 0 0 0 with
      schedule := [.move .broadcastSend], broadcast := some 0x80000001
      outPorts := ((Vector.replicate 11 OutPort.idle).set 0 ready).set 10 ready }
    s.stuck = false ∧ s.schedule = .move .broadcastSend :: [] ∧ s.broadcast = some 0x80000001 ∧
    (∃ p : PortIx, (0x80000001#32).getLsbD (if p.val = 10 then 31 else p.val) = true) ∧
    ∀ p : PortIx, (0x80000001#32).getLsbD (if p.val = 10 then 31 else p.val) = true →
      s.outPorts.get p = ready := by decide

/-- The last vector, with the lowest SP that the statement admits. -/
theorem witness_EntryPushesAndLoadsTheVector :
    let s := start 0x1000 0x808 0x21 [] [(0x7F8, [0, 6, 0, 0, 0, 0, 0x10, 0])] []
    s.canEnter 255 0x1000 ∧ s.Plain ∧ 0x808 ≤ s.sp.toNat :=
  ⟨canEnter_of rfl rfl (by decide) (by decide) (by decide) (by decide +kernel) (by decide +kernel), nofun, by decide⟩

/-- First pushes and second pushes outside memory; vectors 3 and 4 with a reserved bit and with a REPEAT; the ROM; a
stuck machine. -/
theorem witness_FaultInsideAnEntryIsFinal :
    let s (sp : Word) := start 0x400 sp 0 [] [(28, [0, 8, 0, 0, 0, 0, 0, 0, 0, 0, 0, 0x40])] []
    let t : State := { s 0x20004 with stuck := true, schedule := [.move .tick] }
    ((s 0x20004).romActive = false ∧ memoryBytes < ((s 0x20004).sp - 4).toNat + 4) ∧
    ((s 4).during = [] ∧ ((s 4).sp - 4).toNat + 4 ≤ memoryBytes ∧ memoryBytes < ((s 4).sp - 8).toNat + 4) ∧
    (((s 0x8000).sp - 4).toNat + 4 ≤ memoryBytes ∧ ((s 0x8000).sp - 8).toNat + 4 ≤ memoryBytes ∧
      ((s 0x8000).entered 3 0x400).ps &&& 0x00C07800 ≠ 0 ∧
      ((s 0x8000).entered 4 0x400).ps &&& 0x00C07800 = 0 ∧ Ps.rep ((s 0x8000).entered 4 0x400).ps ≠ 0) ∧
    (State.resetNode false).romActive = true ∧ t.stuck = true ∧ ∀ rest, t.schedule ≠ .resetPin :: rest := by
  refine ⟨?_, ?_, ?_, ?_, ?_, fun _ => by simp⟩ <;> decide +kernel

/-- SP from 2048 to 2047 and from 2047 to less; entries that end at 2048 and below; an exception in an instruction that
has taken SP below 2048, in one that has not, and one whose entry is final. -/
theorem witness_StackOverflowOnTheTransition :
    (2048 ≤ (0x800#32).toNat ∧ (0x7FF#32).toNat < 2048) ∧ ¬(2048 ≤ (0x7FF#32).toNat ∧ (0x7FB#32).toNat < 2048) ∧
    atLimit.canEnter 3 0x400 ∧ atLimit.stuck = false ∧ (2048 ≤ atLimit.sp.toNat ∧ (atLimit.sp - 8).toNat < 2048) ∧
    (start 0x400 0x808 0 [] [] []).canEnter 3 0x400 ∧ ¬(2048 ≤ (0x808#32).toNat ∧ (0x808#32 - 8).toNat < 2048) ∧
    (∃ u, enter 4 atLimit.pc { atLimit with sp := 0x7FC } = .next u ∧ u.stuck = false) ∧
    (∃ u, enter 4 atLimit.pc { atLimit with sp := 0x8000 } = .next u) ∧
    ∃ u, enter 4 atLimit.pc { atLimit with sp := 0x2 } = .next u ∧ u.stuck = true :=
  ⟨by decide, by decide, canEnter_of rfl rfl (by decide) (by decide) (by decide) (by decide +kernel) (by decide +kernel),
    rfl, by decide,
    canEnter_of rfl rfl (by decide) (by decide) (by decide) (by decide +kernel) (by decide +kernel), by decide,
    ⟨_, rfl, rfl⟩, ⟨_, rfl⟩, _, rfl, rfl⟩

/-- Each kind of interrupt at a boundary, alone, and none. -/
theorem witness_BoundaryInterrupts :
    let s (ps oe ie : Word) : State := { pair12 0 0 ps with tr := 1, oe := oe, ie := ie }
    ({ s 0x300000 0 0 with traceDue := true } : State).nextInterrupt = some 1 ∧
    ({ s 0x120000 0 0 with tr := 0 } : State).nextInterrupt = some 13 ∧
    ({ s 0x110000 0 0 with cePending := true } : State).nextInterrupt = some 14 ∧
    ({ s 0 0 0 with uePending := true } : State).nextInterrupt = some 15 ∧
    (s 0x180000 1 0).nextInterrupt = some 32 ∧ (s 0x180000 0x80000000 0).nextInterrupt = some 63 ∧
    (s 0x140000 0 0x200).nextInterrupt = some 73 ∧ (s 0x140000 0 0x80000000).nextInterrupt = some 95 ∧
    ({ s 0x140000 0 0x80000000 with pe := 0x80000000 } : State).nextInterrupt = some 127 ∧
    (s 0x100000 0x80000001 0x80000000).nextInterrupt = none ∧
    ({ s 0x180000 1 0 with inhibit := true } : State).nextInterrupt = none ∧
    (s 0x180000 1 0).romActive = false ∧ (s 0x180000 1 0).inhibit = false ∧ (s 0x180000 1 0).schedule = [] ∧
    (s 0x180000 1 0).stuck = false ∧ crossed (s 0x180000 1 0).sp ((s 0x180000 1 0).sp - 8) = false := by
  decide +kernel

/-- With two deliverable interrupts the ranks decide, the listed order between equal ranks. -/
theorem witness_BoundaryInterrupts_ranks :
    let s : State := { pair12 0 0 0x180000 with oe := 0x80000001 }
    s.candidates = [32, 63] ∧ leastRank (fun n => 100 - n) s.candidates = some 63 ∧
      leastRank (fun _ => 0) s.candidates = some 32 := by decide +kernel

theorem witness_BoundaryInterrupts_entry :
    ({ pair12 0 0 0x180000 with oe := 1 } : State).canEnter 32 0x400 :=
  canEnter_of rfl rfl (by decide) (by decide) (by decide) (by decide +kernel) (by decide +kernel)

/-- NOP at which an error is corrected, with a move before its fetch, an abandoned NOP, an abandoned ADDW that stores
to memory, and the entry of 15. -/
theorem witness_MemoryErrorsInterrupt :
    let during : List (List Visit) := [[.move .tick]]
    let plain : State := start 0x400 0x8000 0 [] [] [0x0B]
    let s (eccs : List Ecc) : State := { plain with schedule := [.processor eccs during] }
    let begun (ce : Bool) : State := { plain with
      during := during, inhibit := false, traceDue := true, freeCount := plain.freeCount + 1, cePending := ce }
    let noted : State := { start 0x400 0x8000 0 [] [] [] with uePending := true }
    ((s [.corrected]).schedule = .processor [.corrected] during :: [] ∧ (s [.corrected]).stuck = false ∧
      (s [.corrected]).waiting = false ∧ (s [.corrected]).romActive = false ∧ (s [.corrected]).nextInterrupt = none ∧
      Ps.rep (s [.corrected]).ps = 0 ∧ (∃ bs, decode (s [.corrected]).fetchBytes = .ok (.nop, bs)) ∧
      (s [.corrected]).staleCode 1 = false ∧ ∃ u, fetchOpcode (begun true) = .ok () u) ∧
    ((s [.corrected, .uncorrectable]).schedule = .processor [.corrected, .uncorrectable] during :: [] ∧
      (s [.corrected, .uncorrectable]).nextInterrupt = none ∧
      [Ecc.corrected, .uncorrectable] = [] ++ .corrected :: [.uncorrectable] ∧ Ecc.uncorrectable ∉ ([] : List Ecc) ∧
      ∃ u0 u, fetchOpcode (begun true) = .ok () u0 ∧ abandoned .nop u0 = .ok () u) ∧
    (∃ w s1 u, (pair12 1 2 0).during = [] ∧ Ps.rep (pair12 1 2 0).ps = 0 ∧
      fieldsTouched 0x8000 none (Instr.addw (.autoinc 1) (.regIndirect 2)).fields (pair12 0x900 0x904 0) = .ok w s1 ∧
      w = { regs := [1], ranges := [(0x904, 4)] } ∧ abandoned (.addw (.autoinc 1) (.regIndirect 2)) (pair12 0x900 0x904 0) = .ok () u) ∧
    noted.schedule = [] ∧ noted.stuck = false ∧ noted.nextInterrupt = some 15 ∧ noted.canEnter 15 noted.pc ∧
    crossed noted.sp (noted.sp - 8) = false ∧ noted.Plain ∧ 0x808 ≤ noted.sp.toNat := by
  refine ⟨⟨rfl, rfl, rfl, rfl, ?_, ?_, ⟨_, rfl⟩, ?_, _, rfl⟩, ⟨rfl, ?_, rfl, nofun, _, _, rfl, rfl⟩,
    ⟨_, _, _, rfl, ?_, rfl, ?_, rfl⟩, rfl, rfl, ?_,
    canEnter_of rfl rfl (by decide) (by decide) (by decide) (by decide +kernel) (by decide +kernel), ?_, nofun, ?_⟩
  all_goals decide +kernel

/-- An abandoned skip; an error in the entry of the boundary interrupt 15, and in that of an Address Error at an opcode
byte outside memory. -/
theorem witness_MemoryErrorsInterrupt_entries :
    let skip : State := start 0x400 0x8000 0x54000000 [] [] [0x0B]
    let met (s : State) (e : List Ecc) : State := { s with schedule := [.processor e []] }
    let noted : State := { start 0x400 0x8000 0 [] [] [] with uePending := true }
    let outside : State := start 0x20000 0x8000 0 [] [] []
    (skip.during = [] ∧ Ps.rep skip.ps ≠ 0 ∧ isUnimplemented .nop = false ∧ skip.reg (Ps.repReg skip.ps) = 0 ∧
      ∃ u, abandoned .nop skip = .ok () u) ∧
    ((met noted [.corrected]).schedule = .processor [.corrected] [] :: [] ∧ (met noted [.corrected]).stuck = false ∧
      (met noted [.corrected]).nextInterrupt = some 15 ∧ noted.canEnter 15 noted.pc ∧
      crossed noted.sp (noted.sp - 8) = false) ∧
    (met outside [.uncorrectable]).nextInterrupt = none ∧ outside.waiting = false ∧ outside.romActive = false ∧
    0x20000 ≤ outside.pc.toNat ∧
    ({ outside with inhibit := false, traceDue := true, freeCount := 1 } : State).canEnter 11 outside.pc := by
  refine ⟨⟨rfl, ?_, rfl, ?_, _, rfl⟩, ⟨rfl, rfl, ?_,
    canEnter_of rfl rfl (by decide) (by decide) (by decide) (by decide +kernel) (by decide +kernel), ?_⟩, ?_, rfl, rfl, ?_,
    canEnter_of rfl rfl (by decide) (by decide) (by decide) (by decide +kernel) (by decide +kernel)⟩
  all_goals decide +kernel

/-- Fields, pointers, operands, pushes and pops outside memory, at its end, and an opcode byte there. -/
theorem witness_AddressErrorsSaveTheInstruction :
    let s := start 0x400 0x8000 0 [(1, 0x1FFFD), (2, 0x900)] [] []
    let low := start 0x400 0x1FFFE 0 [] [] []
    let end0 := start 0x20000 0x8000 0 [] [] []
    let cut := start 0x1FFFE 0x8000 0 [] [] [0x04, 0xF9]
    (modeIllegal .r (.truncated (some 0xF9) : Mode .word) = false ∧
      (Mode.truncated (some 0xF9) : Mode .word).isTruncated = true ∧ 0x20000 < (s.reg 1).toNat + 4 ∧
      locateField .r 0x8000 (.regIndirect 1 : Mode .word) s = .ok (.mem 0x1FFFD) s ∧
      locateField .rw 0x8000 (.regIndirect 1 : Mode .word) s = .ok (.mem 0x1FFFD) s) ∧
    readField 0x8000 (.regIndirect 1 : Mode .word) s = .exc 11 s ∧
    (∃ s1, readField 0x8000 (.register 2 : Mode .word) s = .ok 0x900 s1 ∧
      readSecond 0x8000 (.register 2 : Mode .word) (.regIndirect 1 : Mode .word) s1 = .exc 11 s ∧
      readField 0x8000 (.wordDirect 0x20000 : Mode .byte) s1 = .exc 11 s ∧
      openModified 0x8000 (.regIndirect 1 : Mode .word) s1 = .exc 11 s ∧
      openWritten 0x8000 (.wordIndirect 0x1FFFD : Mode .word) s1 = .exc 11 s ∧
      openWritten 0x8000 (.regIndirect 1 : Mode .word) s1 = .ok (.mem 0x1FFFD) s) ∧
    (∃ t, addressOf 0x8000 (.autoincInd 1) { s with ps := Ps.withRep s.ps 0 } = .exc 11 t) ∧
    (∃ s1, addressOf 2 (.wordDirect 0x600) { s with sp := 2, ps := Ps.withRep s.ps 0 } = .ok 0x600 s1 ∧
      0x20000 < (2#32 - 4).toNat + 4) ∧
    0x20000 < low.sp.toNat + 4 ∧
    (∃ w s1, readMem false 0x1FFFC 4 { low with sp := 0x1FFFC } = .ok w s1 ∧ 0x20000 < (0x1FFFC#32 + 4).toNat + 4) ∧
    (∃ s1, readField 0x1FFFE (.literal 8 : Mode .word) { low with ps := Ps.withRep low.ps 0 } = .ok 8 s1 ∧
      0x20000 < s1.sp.toNat + 4) ∧
    (end0.schedule = [] ∧ end0.nextInterrupt = none ∧ 0x20000 ≤ end0.pc.toNat) ∧
    (∃ i, decode cut.fetchBytes = .error (.truncatedField i) ∧ cut.staleCode i.length = false ∧
      cut.nextInterrupt = none) ∧
    crossed 0x8000 s.sp = false := by
  refine ⟨⟨rfl, rfl, by decide, rfl, rfl⟩, rfl, ⟨_, rfl, rfl, rfl, rfl, rfl, rfl⟩, ⟨_, rfl⟩, ⟨_, rfl, by decide⟩, by decide, ⟨_, _, rfl, by decide⟩,
    ⟨_, rfl, by decide⟩, by decide +kernel, ⟨_, rfl, by decide +kernel, by decide +kernel⟩, by decide⟩

/-- Destinations outside memory after a good source: of NEGR, SQTR, CVRL and CVLR, with values for which these write;
of MOVA, whose own field may be outside too; and the operand of RETP. -/
theorem witness_AddressErrorsSaveTheInstruction_destinations :
    let s := start 0x400 0x8000 0 [(1, 0x1FFFD), (2, 0x3F800000), (3, 0x3FF00000)] [] []
    (∃ s1 s2, readField 0x8000 (.register 2 : Mode .real) s = .ok 0x3F800000 s1 ∧
      openWritten 0x8000 (.regIndirect 1 : Mode .real) s1 = .ok (.mem 0x1FFFD) s2 ∧
      openWritten 0x8000 (.regIndirect 1 : Mode .long) s1 = .ok (.mem 0x1FFFD) s2 ∧
      0x20000 < (0x1FFFD#32).toNat + 4 ∧ (fpFormat .real).isNan 0x3F800000 = false ∧
      (fpFormat .real).sqrt 0 0 0x3F800000 ≠ .invalid) ∧
    (∃ s1 s2 v, readField 0x8000 (.register 2 : Mode .long) s = .ok v s1 ∧
      openWritten 0x8000 (.regIndirect 1 : Mode .long) s1 = .ok (.mem 0x1FFFD) s2 ∧
      openWritten 0x8000 (.regIndirect 1 : Mode .real) s1 = .ok (.mem 0x1FFFD) s2 ∧
      (fpFormat .long).isNan v.toNat = false ∧ (fpFormat .long).sqrt 0 0 v.toNat ≠ .invalid) ∧
    (∃ t, addressOf 0x8000 (.autoincInd 1) s = .exc 11 t) ∧
    (∃ s1 t, addressOf 0x8000 (.literal 8) s = .ok 0x408 s1 ∧
      openWritten 0x8000 (.autoincInd 1 : Mode .word) s1 = .exc 11 t ∧
      openWritten 0x8000 (.regIndirect 1 : Mode .word) s1 = .ok (.mem 0x1FFFD) t) ∧
    ∃ t, readField 0x8000 (.regIndirect 1 : Mode .word) { s with ps := Ps.withRep s.ps 0 } = .exc 11 t := by
  refine ⟨⟨_, _, rfl, rfl, rfl, ?_, ?_, ?_⟩, ⟨_, _, _, rfl, rfl, rfl, ?_, ?_⟩, ⟨_, rfl⟩, ⟨_, _, rfl, rfl, rfl⟩, _, rfl⟩
  all_goals decide +kernel

end Sys2Proof.Tests
end

section
/-! SUPPORT. The Fault Register (O38), and the state after reset (O7, O8): 10 R22, R50. -/

namespace Sys2Proof.Machine

/-! ### The Fault Register (10 R22) -/

/-- Every bit of FR after the four bits of an operand are written from bit i on. -/
theorem FpFormat.getLsbD_operandBits (f : FpFormat) (x i : Nat) (fr : Word) (j : Nat) (hi : i + 3 < 32) :
    (f.operandBits x i fr).getLsbD j =
      if j = i + 3 then f.sign x else if j = i + 2 then f.exp x == f.maxExp
      else if j = i + 1 then f.exp x == 0 else if j = i then f.frac x == 0 else fr.getLsbD j := by
  have h0 : i < 32 := by omega
  have h1 : i + 1 < 32 := by omega
  have h2 : i + 2 < 32 := by omega
  simp only [FpFormat.operandBits, getLsbD_setBit, h0, h1, h2, hi, and_true]

/-- Settles O38: the bits of the second operand are written over those of the source, which stand apart from them. -/
theorem faultRegisterDescribesTheOperands : Obligations.FaultRegisterDescribesTheOperands := by
  intro t k a b
  have source (x j : Nat) (fr : Word) := (fpFormat t).getLsbD_operandBits x 3 fr j (by decide)
  have other (x j : Nat) (fr : Word) := (fpFormat t).getLsbD_operandBits x 7 fr j (by decide)
  simp +decide only [faultTwo, faultOne, source, other, if_true, if_false, FpFormat.maxExp, and_self]

/-! ### The machine after reset (10 R50) -/

/-- Every entry of a file of like things is that thing. -/
theorem get_replicate_fin {α : Type} {k : Nat} (a : α) (p : Fin k) : (Vector.replicate k a).get p = a := by
  rw [Vector.get_eq_getElem, Vector.getElem_replicate]

theorem State.get_resetNode_regs (io : Bool) (n : Reg) : (State.resetNode io).regs.get n = 0 :=
  get_replicate_fin 0 n

theorem State.get_resetNode_inPorts (io : Bool) (p : PortIx) : (State.resetNode io).inPorts.get p = InPort.idle :=
  get_replicate_fin InPort.idle p

theorem State.get_resetNode_outPorts (io : Bool) (p : PortIx) :
    (State.resetNode io).outPorts.get p = OutPort.idle :=
  get_replicate_fin OutPort.idle p

/-- What reset leaves meets the invariant; it takes PI bit 31 from the node's own board (10 R24). -/
theorem State.resetNode_inv : (State.resetNode Config.isIoNode).Inv where
  memory := reset_mem_wf
  status := BitVec.zero_and
  model := by
    show (Config.modelNumber ++ 0#24 : Word).extractLsb' 24 8 = _
    exact BitVec.extractLsb'_append_eq_left
  board := by
    show (if Config.isIoNode then (0x80000000 : Word) else 0).getLsbD 31 = _
    cases Config.isIoNode <;> decide
  outputEnable := BitVec.zero_and
  inputEnable := BitVec.zero_and
  parity := BitVec.zero_and
  overrun := BitVec.zero_and
  inputs p := by rw [State.get_resetNode_inPorts]; exact ⟨rfl, rfl⟩
  outputs p := by rw [State.get_resetNode_outPorts]; exact ⟨rfl, rfl⟩
  broadcasts _ h := nomatch h

/-- Settles O7: State.reset is the reset node of this node's own board. -/
theorem resetMeetsTheInvariant : Obligations.ResetMeetsTheInvariant := State.resetNode_inv

/-- A port status register shows every port when the flag of each is set. -/
theorem portFlags_true : portFlags (fun _ => true) = portMask := by decide

/-- It shows no port when no flag is set. -/
theorem portFlags_false : portFlags (fun _ => false) = 0 := by decide

/-- Settles O8, field by field of the table; the two ready registers show every port, since every count is 0. -/
theorem resetValues : Obligations.ResetValues := by
  have inPort := State.get_resetNode_inPorts Config.isIoNode
  have outPort := State.get_resetNode_outPorts Config.isIoNode
  refine ⟨State.get_resetNode_regs _, rfl, rfl, ?_, ?_, rfl, ?_, ?_, rfl, rfl, ?_, rfl, rfl, inPort,
    fun p => by rw [State.reset, outPort]; exact ⟨rfl, rfl⟩, rfl, rfl, rfl, rfl, rfl, rfl, ?_⟩
  · show (Config.modelNumber ++ 0#24 : Word).extractLsb' 0 24 = 0
    exact BitVec.extractLsb'_append_eq_right
  · show (if Config.isIoNode then (0x80000000 : Word) else 0).extractLsb' 0 31 = 0
    cases Config.isIoNode <;> decide
  · simp only [State.outputReady, State.reset, outPort]; exact portFlags_true
  · simp only [State.inputReady, State.reset, inPort]; exact portFlags_true
  · simp only [State.inputPending, State.reset, inPort]; exact portFlags_false
  · intro x hx
    show Memory.get [(4, 0xAA#8), (5, 0xAA#8)] x = _
    interval_cases x <;> rfl

end Sys2Proof.Machine
end

section
/-! SUPPORT. Register Direct operands of every type (O10): 10 R11, 30 R100. -/

namespace Sys2Proof.Machine

/-! ### Register Direct operands (30 R100) -/

/-- A Register Direct field is one byte: its fetch is that of the mode byte (30 R123). -/
theorem fetchField_register {t : OpType} (k : Access) (n : Reg) (s : State) :
    fetchField k (.register n : Mode t) s = fetchAccess s.nextByte 1 s := rfl

/-- The operand of a Register Direct field is its register, in the state that the fetch leaves. -/
theorem locateField_register {t : OpType} {k : Access} {sp0 : Word} {n : Reg} {s0 s : State}
    (h : fetchAccess s0.nextByte 1 s0 = .ok () s) :
    locateField k sp0 (.register n : Mode t) s0 = .ok (.reg n) s := by
  rw [locateField, fetchField_register, h]
  rfl

/-- What a Register Direct field reads but for a Longreal: the low part of its register (30 R100). -/
theorem readField_register {t : OpType} (ht : t ≠ .long) {sp0 : Word} {n : Reg} {s0 s : State}
    (h : fetchAccess s0.nextByte 1 s0 = .ok () s) :
    readField sp0 (.register n : Mode t) s0 = .ok ((s.reg n).setWidth t.bits) s := by
  rw [readField, locateField_register h]
  simp only [readPlace, ht, if_false, Res.ok_bind]
  rfl

/-- What a Register Direct field reads as a Longreal: its pair (10 R11). -/
theorem readField_register_long {sp0 : Word} {n : Reg} {s0 s : State}
    (h : fetchAccess s0.nextByte 1 s0 = .ok () s) :
    readField sp0 (.register n : Mode .long) s0 = .ok (s.pair n) s := by
  rw [readField, locateField_register h]
  exact congrArg (Res.ok · s) (BitVec.setWidth_eq _)

/-- A Register Direct field that is only written answers its register. -/
theorem openWritten_register {t : OpType} {sp0 : Word} {n : Reg} {s0 s : State}
    (h : fetchAccess s0.nextByte 1 s0 = .ok () s) :
    openWritten sp0 (.register n : Mode t) s0 = .ok (.reg n) s := by
  rw [openWritten, locateField_register h]
  rfl

/-- A Word fills the register that it is written to. -/
theorem writePlace_word_reg (n : Reg) (v : Word) (s : State) :
    writePlace .word (.reg n) v s = .ok () (s.setReg n v) :=
  congrArg (fun w => Res.ok () (s.setReg n w)) (BitVec.signExtend_eq v)

/-- So does a Real. -/
theorem writePlace_real_reg (n : Reg) (v : Word) (s : State) :
    writePlace .real (.reg n) v s = .ok () (s.setReg n v) :=
  congrArg (fun w => Res.ok () (s.setReg n w)) (BitVec.signExtend_eq v)

/-- A Longreal fills the pair that it is written to. -/
theorem writePlace_long_reg (n : Reg) (v : Long) (s : State) :
    writePlace .long (.reg n) v s = .ok () (s.setPair n v) :=
  congrArg (fun w => Res.ok () (s.setPair n w)) (BitVec.setWidth_eq v)

/-- Where no register holds half of a misaligned Longreal, a pair is its two registers (10 R11). -/
theorem State.pair_of_no_hazard {s : State} (hp : s.pairHazard = []) (hq : s.pieceHazard = []) (n : Reg) :
    s.pair n = s.regs.get (n + 1) ++ s.regs.get n := by
  simp [State.pair, State.half, State.reg, hp, hq]

/-- A pair written as a Longreal, and then register by register, reads as the two registers, an odd one too
(10 R11; log 16). -/
theorem State.pair_setReg_setReg_setPair {s : State} (hp : s.pairHazard = []) (hq : s.pieceHazard = []) (n : Reg)
    (v : Long) (x y : Word) : (((s.setPair n v).setReg n x).setReg (n + 1) y).pair n = y ++ x := by
  by_cases hn : n.val % 2 = 1
  · exact State.pair_of_halves _ n x y hn (by simp [hn]) (by simp [hn]) (by simp [hn])
  · have h1 := Reg.add_one_ne n
    rw [State.pair_of_no_hazard (by simp [hn, hp, pairAfter]) (by simp [hn, hp, hq, pairAfter, pieceAfter])]
    simp [h1.symm]

/-- Settles O10: a field is read and opened as its register, and a place is written as State.setReg and State.setPair
say. -/
theorem registerOperands : Obligations.RegisterOperands := by
  intro s0 s n hp hq h
  have hreg : s.reg n = s.regs.get n := State.reg_of_not_mem (by simp [hp])
  have h1 := Reg.add_one_ne n
  refine ⟨?_, ?_, ?_, ?_, ?_, fun t sp0 _ => openWritten_register h, ?_, ?_, ?_, ?_⟩
  · rw [readField_register (by decide) h, hreg, ← BitVec.setWidth_eq_extractLsb' (by decide)]
  · rw [readField_register (by decide) h, hreg, ← BitVec.setWidth_eq_extractLsb' (by decide)]
  · rw [readField_register (by decide) h, hreg]
    exact congrArg (Res.ok · s) (BitVec.setWidth_eq _)
  · rw [readField_register (by decide) h, hreg]
    exact congrArg (Res.ok · s) (BitVec.setWidth_eq _)
  · rw [readField_register_long h, State.pair_of_no_hazard hp hq]
  · exact fun v => ⟨_, rfl, rfl, State.reg_setReg_self ..⟩
  · exact fun v => ⟨_, rfl, rfl, State.reg_setReg_self ..⟩
  · exact fun v => ⟨_, writePlace_word_reg n v s, writePlace_real_reg n v s, rfl, State.reg_setReg_self ..⟩
  · exact fun v => ⟨_, writePlace_long_reg n v s, State.pair_setPair_self .., by simp [h1.symm], by simp,
      fun m hm hm' => by simp [hm, hm'], fun x y => ⟨_, _, writePlace_word_reg n x _,
        writePlace_word_reg (n + 1) y _, State.pair_setReg_setReg_setPair hp hq n v x y⟩⟩

end Sys2Proof.Machine
end

section
/-! SUPPORT. The operations of the machine keep its invariant: the bits of its registers, the updates of a state, the
moves of other agents, memory, PS, exceptions and operands. -/

namespace Sys2Proof.Machine

/-! ### Bits of masked registers -/

/-- Writing a bit that a mask does not name keeps the bits of the mask 0. -/
theorem setBit_and_eq_zero {x m : Word} {i : Nat} (b : Bool) (h : x &&& m = 0) (hi : m.getLsbD i = false) :
    setBit x i b &&& m = 0 := by
  apply BitVec.eq_of_getLsbD_eq
  intro j hj
  have hx := congrArg (·.getLsbD j) h
  simp only [BitVec.getLsbD_and, getLsbD_setBit] at hx ⊢
  split
  · rename_i e
    simp [e.1, hi]
  · exact hx

/-- Writing the bit of a port in a port register leaves the bits of no port 0 (10 R26). -/
theorem setBit_portBit_and_eq_zero {x : Word} (p : PortIx) (b : Bool) (h : x &&& ~~~portMask = 0) :
    setBit x (portBit p) b &&& ~~~portMask = 0 :=
  setBit_and_eq_zero b h ((by decide : ∀ p : PortIx, (~~~portMask).getLsbD (portBit p) = false) p)

/-- A masked value has none of the bits that a mask apart from the first one names. -/
theorem and_and_eq_zero {m k : Word} (x : Word) (h : m &&& k = 0) : x &&& m &&& k = 0 := by
  rw [BitVec.and_assoc, h]
  exact BitVec.and_zero

/-- A value masked to the bits of existing ports has no others (10 R26). -/
theorem and_portMask (x : Word) : x &&& portMask &&& ~~~portMask = 0 := and_and_eq_zero x (by decide)

/-- The condition flags are no reserved bits (10 R14, R20). -/
theorem withCond_reserved {ps : Word} (c v z n u : Bool) (h : ps &&& Ps.reservedMask = 0) :
    Ps.withCond ps c v z n u &&& Ps.reservedMask = 0 :=
  setBit_and_eq_zero _ (setBit_and_eq_zero _ (setBit_and_eq_zero _ (setBit_and_eq_zero _
    (setBit_and_eq_zero _ h (by decide)) (by decide)) (by decide)) (by decide)) (by decide)

/-- The floating-point flags are no reserved bits (10 R14, R20). -/
theorem withFp_reserved {ps : Word} (ix uf fz ovf inv : Bool) (h : ps &&& Ps.reservedMask = 0) :
    Ps.withFp ps ix uf fz ovf inv &&& Ps.reservedMask = 0 :=
  setBit_and_eq_zero _ (setBit_and_eq_zero _ (setBit_and_eq_zero _ (setBit_and_eq_zero _
    (setBit_and_eq_zero _ h (by decide)) (by decide)) (by decide)) (by decide)) (by decide)

/-- Both written together are none either (10 R14, R20). -/
theorem withFp_withCond_reserved {ps : Word} (c v z n u ix uf fz ovf inv : Bool) (h : ps &&& Ps.reservedMask = 0) :
    Ps.withFp (Ps.withCond ps c v z n u) ix uf fz ovf inv &&& Ps.reservedMask = 0 :=
  withFp_reserved _ _ _ _ _ (withCond_reserved _ _ _ _ _ h)

/-- PS.REP is no reserved bit (10 R14, R20). -/
theorem withRep_reserved {ps : Word} (mode : BitVec 2) (h : ps &&& Ps.reservedMask = 0) :
    Ps.withRep ps mode &&& Ps.reservedMask = 0 :=
  setBit_and_eq_zero _ (setBit_and_eq_zero _ h (by decide)) (by decide)

/-- Neither of two values has a bit of a mask, so their union has none. -/
theorem or_and_eq_zero {x y m : Word} (hx : x &&& m = 0) (hy : y &&& m = 0) : (x ||| y) &&& m = 0 := by
  rw [BitVec.and_comm, BitVec.and_or_distrib_left, BitVec.and_comm m, BitVec.and_comm m, hx, hy]
  rfl

/-- Clearing bits keeps the bits of a mask 0. -/
theorem and_and_eq_zero_left {x m : Word} (y : Word) (h : x &&& m = 0) : x &&& y &&& m = 0 := by
  rw [BitVec.and_assoc, BitVec.and_comm y, ← BitVec.and_assoc, h]
  exact BitVec.zero_and

/-- PS.REPREG is no reserved bit (10 R14, R20). -/
theorem withRepReg_reserved {ps : Word} (r : Reg) (h : ps &&& Ps.reservedMask = 0) :
    Ps.withRepReg ps r &&& Ps.reservedMask = 0 :=
  or_and_eq_zero (and_and_eq_zero_left _ h)
    ((by decide : ∀ r : Reg, BitVec.ofNat 32 (r.val * 2 ^ 26) &&& Ps.reservedMask = 0) r)

/-- What may be loaded into PS has no reserved bit (10 R20, 93 U18). -/
theorem legal_iff (ps : Word) : Ps.legal ps = true ↔ ps &&& Ps.reservedMask = 0 := by
  simp [Ps.legal]

/-! ### Even address and count registers (46 R362) -/

/-- A value with its low bit forced to zero is even. -/
theorem getLsbD_zero_evenPart (v : Word) : (evenPart v).getLsbD 0 = false := by
  simp [evenPart]

/-- Going on by a halfword leaves an even value even. -/
theorem getLsbD_zero_add_two {v : Word} (h : v.getLsbD 0 = false) : (v + 2).getLsbD 0 = false := by
  rw [BitVec.getLsbD_add (by decide), h, BitVec.carry_zero]
  rfl

/-- So does going back by a halfword. -/
theorem getLsbD_zero_sub_two {v : Word} (h : v.getLsbD 0 = false) : (v - 2).getLsbD 0 = false := by
  rw [show v - 2 = v + 0xFFFFFFFE by bv_omega, BitVec.getLsbD_add (by decide), h, BitVec.carry_zero]
  rfl

/-- An input port whose address and count are even. -/
def InPort.Even (q : InPort) : Prop := q.addr.getLsbD 0 = false ∧ q.count.getLsbD 0 = false

/-- An output port whose address and count are even. -/
def OutPort.Even (q : OutPort) : Prop := q.addr.getLsbD 0 = false ∧ q.count.getLsbD 0 = false

/-- The address and count that LPTR, LCNT, BPTR and BCNT load are even (46 R362). -/
theorem InPort.Even.withAddr {q : InPort} (h : q.Even) (v : Word) : InPort.Even { q with addr := evenPart v } :=
  ⟨getLsbD_zero_evenPart v, h.2⟩

theorem InPort.Even.withCount {q : InPort} (h : q.Even) (v : Word) (parity overrun : Bool) :
    InPort.Even { q with count := evenPart v, parityNoted := parity, overrunNoted := overrun } :=
  ⟨h.1, getLsbD_zero_evenPart v⟩

theorem OutPort.Even.withAddr {q : OutPort} (h : q.Even) (v : Word) : OutPort.Even { q with addr := evenPart v } :=
  ⟨getLsbD_zero_evenPart v, h.2⟩

theorem OutPort.Even.withCount {q : OutPort} (h : q.Even) (v : Word) : OutPort.Even { q with count := evenPart v } :=
  ⟨h.1, getLsbD_zero_evenPart v⟩

/-- A port that sends a halfword goes on evenly (46 R371). -/
theorem OutPort.Even.sent {q : OutPort} (h : q.Even) (x : Half) : (q.sent x).Even :=
  ⟨getLsbD_zero_add_two h.1, getLsbD_zero_sub_two h.2⟩

/-! ### Results whose states meet the invariant -/

/-- The state that a part of an instruction answers, or raises an exception in, meets the invariant. -/
def Res.MeetsInv {α : Type} : Res α → Prop
  | .ok _ s => s.Inv
  | .exc _ s => s.Inv
  | .refused _ => True

/-- The state that a turn goes on to meets the invariant. -/
def NextMeetsInv : Host.Outcome State Fault Refusal → Prop
  | .next s => s.Inv
  | .fault _ => True
  | .refused _ => True

/-- One part after another, where the second may use what the first has answered. -/
theorem Res.MeetsInv.bind_of_eq {α β : Type} {x : Res α} {f : α → State → Res β} (h : x.MeetsInv)
    (hf : ∀ a s, x = .ok a s → s.Inv → (f a s).MeetsInv) : (x.bind f).MeetsInv := by
  cases x with
  | ok a s => exact hf a s rfl h
  | exc n s => exact h
  | refused r => exact h

/-- Parts that each keep the invariant keep it one after another. -/
theorem Res.MeetsInv.bind {α β : Type} {x : Res α} {f : α → State → Res β} (h : x.MeetsInv)
    (hf : ∀ a s, s.Inv → (f a s).MeetsInv) : (x.bind f).MeetsInv :=
  h.bind_of_eq fun a s _ => hf a s

section

variable {s : State}

/-! ### The updates of a state -/

theorem State.Inv.setReg (h : s.Inv) (n : Reg) (v : Word) : (s.setReg n v).Inv := { h with }

theorem State.Inv.setPair (h : s.Inv) (n : Reg) (v : Long) : (s.setPair n v).Inv := { h with }

theorem State.Inv.advance (h : s.Inv) (n : Nat) : (s.advance n).Inv := { h with }

theorem State.Inv.jumpTo (h : s.Inv) (t : Word) : (s.jumpTo t).Inv := { h with }

theorem State.Inv.withSp (h : s.Inv) (v : Word) : ({ s with sp := v } : State).Inv := { h with }

theorem State.Inv.withFr (h : s.Inv) (v : Word) : ({ s with fr := v } : State).Inv := { h with }

theorem State.Inv.withDuring (h : s.Inv) (d : List (List Visit)) : ({ s with during := d } : State).Inv :=
  { h with }

theorem State.Inv.withFetch (h : s.Inv) (d : List (List Visit)) (a : Nat) :
    ({ s with during := d, nextByte := a } : State).Inv := { h with }

theorem State.Inv.withPs (h : s.Inv) {ps : Word} (hps : ps &&& Ps.reservedMask = 0) :
    ({ s with ps := ps } : State).Inv := { h with status := hps }

theorem State.Inv.withMemory (h : s.Inv) {m : Memory} (hm : m.wf = true) : ({ s with mem := m } : State).Inv :=
  { h with memory := hm }

theorem State.Inv.setFlags (h : s.Inv) {w : Nat} (r : AluResult w) : (s.setFlags r).Inv :=
  h.withPs (withCond_reserved _ _ _ _ _ h.status)

theorem State.Inv.store (h : s.Inv) (k : Storer) {a n : Nat} (v : Nat) (ha : a + n ≤ memoryBytes) :
    (s.store k a n v).Inv := { h with memory := State.wf_store h.memory ha }

theorem State.Inv.setInPort (h : s.Inv) (p : PortIx) {q : InPort} (hq : q.Even) : (s.setInPort p q).Inv :=
  { h with
    inputs := fun r => by
      rw [State.setInPort_inPorts, get_set_fin]
      split
      · exact hq
      · exact h.inputs r }

theorem State.Inv.setOutPort (h : s.Inv) (p : PortIx) {q : OutPort} (hq : q.Even) : (s.setOutPort p q).Inv :=
  { h with
    outputs := fun r => by
      rw [State.setOutPort_outPorts, get_set_fin]
      split
      · exact hq
      · exact h.outputs r }

/-- Changing every port, each to an even one. -/
theorem State.Inv.withOutPorts (h : s.Inv) {f : PortIx → OutPort} (hf : ∀ p, (f p).Even) :
    ({ s with outPorts := Vector.ofFn f } : State).Inv :=
  { h with
    outputs := fun p => by
      rw [Vector.get_eq_getElem, Vector.getElem_ofFn]
      exact hf p }

theorem State.Inv.mapSelected (h : s.Inv) (m : Word) {f : OutPort → OutPort}
    (hf : ∀ q : OutPort, q.Even → (f q).Even) : (s.mapSelected m f).Inv :=
  h.withOutPorts fun p => by
    split
    · exact hf _ (h.outputs p)
    · exact h.outputs p

theorem State.Inv.showErrors (h : s.Inv) (p : PortIx) (parity overrun : Bool) : (s.showErrors p parity overrun).Inv :=
  { h with
    parity := setBit_portBit_and_eq_zero p parity h.parity
    overrun := setBit_portBit_and_eq_zero p overrun h.overrun }

theorem State.Inv.withBroadcast (h : s.Inv) {b : Option Word} (hb : ∀ m, b = some m → m &&& ~~~portMask = 0) :
    ({ s with broadcast := b } : State).Inv := { h with broadcasts := hb }

theorem State.Inv.resetPorts (h : s.Inv) : s.resetPorts.Inv :=
  { h with
    outputEnable := BitVec.zero_and
    inputEnable := BitVec.zero_and
    parity := BitVec.zero_and
    overrun := BitVec.zero_and
    inputs := fun p => by rw [State.resetPorts_inPorts, get_replicate_fin]; exact ⟨rfl, rfl⟩
    outputs := fun p => by rw [State.resetPorts_outPorts, get_replicate_fin]; exact ⟨rfl, rfl⟩
    broadcasts := fun _ hm => nomatch hm }

/-- Either of two states meets the invariant, whichever it is. -/
theorem State.Inv.ite {c : Prop} [Decidable c] {a b : State} (ha : a.Inv) (hb : b.Inv) :
    (if c then a else b).Inv := by
  split
  · exact ha
  · exact hb

/-! ### The moves of other agents (46 R370) -/

theorem stepSend_inv (h : s.Inv) (p : PortIx) : (stepSend p s).Inv := by
  unfold stepSend
  dsimp only
  split
  · exact h.setOutPort p (OutPort.Even.sent (h.outputs p) _)
  · exact h

theorem stepBroadcast_inv (h : s.Inv) : (stepBroadcast s).Inv := by
  unfold stepBroadcast
  split
  · exact h
  · rename_i m hm
    split
    · exact h
    · refine (h.mapSelected m fun q hq => hq.sent _).withBroadcast fun b hb => ?_
      split at hb
      · cases hb
        exact h.broadcasts m hm
      · cases hb

theorem stepStore_inv (h : s.Inv) (p : PortIx) : (stepStore p s).Inv := by
  unfold stepStore
  dsimp only
  split
  · exact h
  · rename_i x _
    split
    · exact h
    · have hq : InPort.Even { s.inPorts.get p with
          addr := (s.inPorts.get p).addr + 2
          count := (s.inPorts.get p).count - 2
          latch := none } :=
        ⟨getLsbD_zero_add_two (h.inputs p).1, getLsbD_zero_sub_two (h.inputs p).2⟩
      have ht := (h.store .agent x.toNat (dmaAddress_inside (s.inPorts.get p).addr)).setInPort p hq
      split
      · exact ht.showErrors p _ _
      · exact ht

theorem stepArrive_inv (h : s.Inv) (p : PortIx) (x : Half) (bad : Bool) : (stepArrive p x bad s).Inv := by
  unfold stepArrive
  dsimp only
  split
  · refine State.Inv.showErrors (h.setInPort p ?_) p _ _
    exact h.inputs p
  · refine h.setInPort p ?_
    exact h.inputs p

theorem arriveFrom_inv (h : s.Inv) (p : PortIx) (x : Half) (bad : Bool) : (arriveFrom p x bad s).Inv :=
  { stepArrive_inv h p x bad with }

theorem stepHost_meetsInv (h : s.Inv) (a : Word) (x : Half) : (stepHost a x s).MeetsInv := by
  unfold stepHost
  split
  · trivial
  · split
    · trivial
    · exact h.store .agent _ (dmaAddress_inside a)

/-- Every move of another agent keeps the invariant. -/
theorem agentMove_meetsInv (h : s.Inv) (m : Move) : (agentMove m s).MeetsInv := by
  cases m with
  | tick => exact { h with }
  | arrive p x bad =>
    simp only [agentMove]
    split
    · trivial
    · exact arriveFrom_inv h p x bad
  | storeLatch p => exact stepStore_inv h p
  | send p => exact stepSend_inv h p
  | broadcastSend => exact stepBroadcast_inv h
  | linkTaken p => exact h.setOutPort p (h.outputs p)
  | hostWrite a x => exact stepHost_meetsInv h a x

/-! ### Accesses to memory (20 R64, R71; 30 R123) -/

theorem readVisits_meetsInv (h : s.Inv) (fp : Bool) (a n : Nat) (vs : List Visit) (got : List (Nat × Byte)) :
    (readVisits fp a n vs got s).MeetsInv := by
  induction vs generalizing got s with
  | nil => exact h
  | cons v vs ih =>
    cases v with
    | move m => exact (agentMove_meetsInv h m).bind fun _ _ h => ih h got
    | byte k => exact ih h _

theorem writeVisits_meetsInv (h : s.Inv) {a n : Nat} (ha : a + n ≤ memoryBytes) (v : Nat) (vs : List Visit)
    (done : List Nat) : (writeVisits a n v vs done s).MeetsInv := by
  induction vs generalizing done s with
  | nil => exact h
  | cons w vs ih =>
    cases w with
    | move m => exact (agentMove_meetsInv h m).bind fun _ _ h => ih h done
    | byte k =>
      simp only [writeVisits]
      split
      · rename_i hk
        simp only [Bool.and_eq_true, decide_eq_true_eq] at hk
        exact ih (h.withMemory (Memory.wf_set h.memory (by omega))) _
      · exact ih h done

theorem fetchVisits_meetsInv (h : s.Inv) (a n : Nat) (vs : List Visit) (done : List Nat) :
    (fetchVisits a n vs done s).MeetsInv := by
  induction vs generalizing done s with
  | nil =>
    simp only [fetchVisits]
    split
    · trivial
    · exact h
  | cons v vs ih =>
    cases v with
    | move m => exact (agentMove_meetsInv h m).bind fun _ _ h => ih h done
    | byte k =>
      simp only [fetchVisits]
      split
      · split
        · trivial
        · exact ih h _
      · exact ih h done

theorem readMem_meetsInv (h : s.Inv) (fp : Bool) (a : Word) (n : Nat) : (readMem fp a n s).MeetsInv := by
  unfold readMem
  split
  · split
    · exact h
    · exact (readVisits_meetsInv (h.withDuring _) _ _ _ _ _).bind fun _ _ h => h
  · exact h

theorem writeMem_meetsInv (h : s.Inv) (fp : Bool) (a : Word) (n v : Nat) : (writeMem fp a n v s).MeetsInv := by
  unfold writeMem
  dsimp only
  split
  · rename_i hi
    have ha := (inMemory_iff a n).1 hi
    split
    · exact h.store _ v ha
    · exact (writeVisits_meetsInv (h.withDuring _) ha _ _ _).bind fun _ _ h =>
        (h.store _ v ha).withMemory (Memory.wf_writeRest h.memory ha)
  · exact h

theorem fetchAccess_meetsInv (h : s.Inv) (a n : Nat) : (fetchAccess a n s).MeetsInv := by
  unfold fetchAccess
  split
  · exact h
  · exact fetchVisits_meetsInv (h.withFetch _ _) _ _ _ _

theorem push_meetsInv (h : s.Inv) (v : Word) : (push v s).MeetsInv := writeMem_meetsInv (h.withSp _) _ _ _ _

theorem pop_meetsInv (h : s.Inv) : (pop s).MeetsInv :=
  (readMem_meetsInv h _ _ _).bind fun _ _ h => { h with }

/-! ### PS, and taking an exception (10 R20; 60 R404 to R407, R416) -/

theorem loadPs_meetsInv (h : s.Inv) (v : Word) : (loadPs v s).MeetsInv := by
  cases e : loadPs v s with
  | ok _ t =>
    obtain ⟨hl, -, rfl⟩ := loadPs_eq_ok.1 e
    exact h.withPs ((legal_iff v).1 hl)
  | exc n t => exact absurd e loadPs_ne_exc
  | refused r => trivial

theorem restorePs_meetsInv (h : s.Inv) (v : Word) : (restorePs v s).MeetsInv := by
  unfold restorePs
  split
  · trivial
  · rename_i hl
    exact h.withPs ((legal_iff v).1 (by simpa using hl))

theorem popReturn_meetsInv (h : s.Inv) : (popReturn s).MeetsInv :=
  (pop_meetsInv h).bind fun q _ h => (pop_meetsInv h).bind fun p _ h =>
    (restorePs_meetsInv h p).bind fun _ _ h => h.jumpTo q

theorem entrySequence_meetsInv (h : s.Inv) (n : Nat) (q : Word) : (entrySequence n q s).MeetsInv :=
  (push_meetsInv h _).bind fun _ _ h => (push_meetsInv h _).bind fun _ _ h =>
    (readMem_meetsInv h _ _ _).bind fun _ _ h => (readMem_meetsInv h _ _ _).bind fun _ _ h =>
      (loadPs_meetsInv h _).bind fun _ _ h => { h with }

theorem enterOnly_meetsInv (h : s.Inv) (n : Nat) (q : Word) : NextMeetsInv (enterOnly n q s) := by
  have he := entrySequence_meetsInv h n q
  unfold enterOnly
  split
  · trivial
  · generalize entrySequence n q s = r at he
    cases r with
    | ok _ t => exact he
    | exc k t => exact { he with }
    | refused r => trivial

theorem checkStack_meetsInv (h : s.Inv) (before q : Word) : NextMeetsInv (checkStack before q s) := by
  unfold checkStack
  split
  · exact enterOnly_meetsInv h 12 q
  · exact h

theorem enter_meetsInv (h : s.Inv) (n : Nat) (q : Word) : NextMeetsInv (enter n q s) := by
  have he := enterOnly_meetsInv h n q
  unfold enter
  generalize enterOnly n q s = o at he
  cases o with
  | next t => exact checkStack_meetsInv he _ _
  | fault f => trivial
  | refused r => trivial

/-- However an instruction ends, the invariant holds after it if it holds of the result of its parts. -/
theorem finish_meetsInv {s0 : State} {r : Res Unit} (h : r.MeetsInv) : NextMeetsInv (finish s0 r) := by
  cases r with
  | ok _ s => exact checkStack_meetsInv h _ _
  | exc n s =>
    have he := enter_meetsInv h n s0.pc
    simp only [finish]
    generalize enter n s0.pc s = o at he
    cases o with
    | next t =>
      dsimp only
      split
      · exact enterOnly_meetsInv he _ _
      · exact he
    | fault f => trivial
    | refused r => trivial
  | refused r => trivial

/-- An instruction that comes to its end. -/
theorem finish_ok_meetsInv {s0 : State} (h : s.Inv) : NextMeetsInv (finish s0 (.ok () s)) := finish_meetsInv h

/-- An instruction that raises an exception. -/
theorem finish_exc_meetsInv {s0 : State} (h : s.Inv) (n : Nat) : NextMeetsInv (finish s0 (.exc n s)) :=
  finish_meetsInv h

/-! ### Operands (30 R99 to R121) -/

theorem fetchField_meetsInv {t : OpType} (h : s.Inv) (k : Access) (m : Mode t) : (fetchField k m s).MeetsInv := by
  unfold fetchField
  split
  · exact h
  · exact fetchAccess_meetsInv h _ _
  · exact (fetchAccess_meetsInv h _ _).bind fun _ _ h => fetchAccess_meetsInv h _ _

theorem fetchFields_meetsInv (h : s.Inv) (fs : List Field) : (fetchFields fs s).MeetsInv := by
  induction fs generalizing s with
  | nil => exact h
  | cons f fs ih =>
    refine (fetchField_meetsInv h _ _).bind fun _ _ h => ?_
    split
    · exact h
    · exact ih h

theorem locate_meetsInv {t : OpType} (h : s.Inv) (k : Access) (sp0 : Word) (m : Mode t) :
    (locate k sp0 m s).MeetsInv := by
  unfold locate
  split
  · exact h
  · cases m with
    | autoincInd r | wordOffRegInd r d | wordOffPcInd d | wordOffSpInd d | wordIndirect a =>
      exact (readMem_meetsInv h _ _ _).bind fun _ _ h => h
    | autodec r => exact h.setReg r _
    | stk =>
      dsimp only
      split
      · exact { h with }
      · exact h
    | _ => exact h

theorem locateField_meetsInv {t : OpType} (h : s.Inv) (k : Access) (sp0 : Word) (m : Mode t) :
    (locateField k sp0 m s).MeetsInv :=
  (fetchField_meetsInv h k m).bind fun _ _ h => locate_meetsInv h k sp0 m

theorem stepRegister_inv {t : OpType} (h : s.Inv) (m : Mode t) : (stepRegister m s).Inv := by
  cases m with
  | autoinc r | autoskip r | autoincInd r => exact h.setReg r _
  | _ => exact h

theorem popOperand_inv {t : OpType} (h : s.Inv) (m : Mode t) : (popOperand m s).Inv := by
  cases m with
  | stk => exact { h with }
  | _ => exact h

theorem readPlace_meetsInv (h : s.Inv) (t : OpType) (p : Place) : (readPlace t p s).MeetsInv := by
  cases p with
  | value v => exact h
  | reg n => exact h
  | mem a => exact (readMem_meetsInv h _ _ _).bind fun _ _ h => h

theorem writePlace_meetsInv (h : s.Inv) (t : OpType) (p : Place) (v : BitVec t.bits) :
    (writePlace t p v s).MeetsInv := by
  cases p with
  | value _ => exact h
  | reg n =>
    simp only [writePlace]
    split
    · exact h.setPair n _
    · exact h.setReg n _
  | mem a => exact writeMem_meetsInv h _ _ _ _

theorem readField_meetsInv {t : OpType} (h : s.Inv) (sp0 : Word) (m : Mode t) : (readField sp0 m s).MeetsInv :=
  (locateField_meetsInv h _ _ _).bind fun _ _ h => (readPlace_meetsInv h _ _).bind fun _ _ h =>
    popOperand_inv (stepRegister_inv h m) m

theorem readSecond_meetsInv {t u : OpType} (h : s.Inv) (sp0 : Word) (src : Mode t) (m : Mode u) :
    (readSecond sp0 src m s).MeetsInv := by
  refine (locateField_meetsInv h _ _ _).bind fun _ _ h => (readPlace_meetsInv h _ _).bind fun _ _ h => ?_
  have hs := stepRegister_inv h m
  split
  · exact popOperand_inv hs m
  · exact hs

theorem openModified_meetsInv {t : OpType} (h : s.Inv) (sp0 : Word) (m : Mode t) :
    (openModified sp0 m s).MeetsInv :=
  (locateField_meetsInv h _ _ _).bind fun _ _ h => (readPlace_meetsInv h _ _).bind fun _ _ h =>
    stepRegister_inv h m

theorem openWritten_meetsInv {t : OpType} (h : s.Inv) (sp0 : Word) (m : Mode t) :
    (openWritten sp0 m s).MeetsInv :=
  (locateField_meetsInv h _ _ _).bind fun _ _ h => stepRegister_inv h m

theorem addressOf_meetsInv (h : s.Inv) (sp0 : Word) (m : Mode .address) : (addressOf sp0 m s).MeetsInv := by
  refine (fetchField_meetsInv h _ _).bind fun _ _ h => ?_
  split
  · exact h
  · exact h
  · refine (locate_meetsInv h _ _ _).bind fun p _ h => ?_
    cases p with
    | mem a => exact stepRegister_inv h m
    | value v => exact h
    | reg n => exact h

end

end Sys2Proof.Machine
end

section
/-! SUPPORT. Every instruction keeps the invariant, by the shapes of Forms.lean and the operations over operands. -/

namespace Sys2Proof.Machine

section

variable {s : State}

/-! ### The shapes of instructions -/

theorem deliverOverflow_meetsInv (h : s.Inv) (len : Nat) (v : Bool) : (deliverOverflow len v s).MeetsInv := by
  unfold deliverOverflow
  split
  · exact h
  · exact h.advance len

theorem storeInteger_meetsInv {t : OpType} (h : s.Inv) (len : Nat) (p : Place) (r : AluResult t.bits) :
    (storeInteger len t p r s).MeetsInv :=
  (writePlace_meetsInv h _ _ _).bind fun _ _ h => deliverOverflow_meetsInv (h.setFlags r) _ _

theorem integerModify_meetsInv {t u : OpType} (h : s.Inv) (len : Nat) (src : Mode t) (des : Mode u)
    (op : Bool → BitVec t.bits → BitVec u.bits → AluResult u.bits) :
    NextMeetsInv (integerModify len src des op s) :=
  finish_meetsInv <| (readField_meetsInv h _ _).bind fun _ _ h => (openModified_meetsInv h _ _).bind fun _ _ h =>
    storeInteger_meetsInv h _ _ _

theorem integerDivide_meetsInv {t u : OpType} (h : s.Inv) (len : Nat) (src : Mode t) (des : Mode u)
    (op : Bool → BitVec t.bits → BitVec u.bits → Option (AluResult u.bits)) :
    NextMeetsInv (integerDivide len src des op s) := by
  refine finish_meetsInv <| (readField_meetsInv h _ _).bind fun a _ h =>
    (openModified_meetsInv h _ _).bind fun bp _ h => ?_
  split
  · exact storeInteger_meetsInv h _ _ _
  · exact h

theorem integerWrite_meetsInv {t u : OpType} (h : s.Inv) (len : Nat) (src : Mode t) (des : Mode u)
    (op : Bool → BitVec t.bits → AluResult u.bits) : NextMeetsInv (integerWrite len src des op s) :=
  finish_meetsInv <| (readField_meetsInv h _ _).bind fun _ _ h => (openWritten_meetsInv h _ _).bind fun _ _ h =>
    storeInteger_meetsInv h _ _ _

theorem integerCompare_meetsInv {t u : OpType} (h : s.Inv) (len : Nat) (src : Mode t) (des : Mode u)
    (op : Bool → BitVec t.bits → BitVec u.bits → AluResult u.bits) :
    NextMeetsInv (integerCompare len src des op s) :=
  finish_meetsInv <| (readField_meetsInv h _ _).bind fun _ _ h => (readSecond_meetsInv h _ _ _).bind fun _ _ h =>
    (h.setFlags _).advance _

theorem integerConvert_meetsInv {t u : OpType} (h : s.Inv) (len : Nat) (src : Mode t) (des : Mode u)
    (op : Bool → BitVec t.bits → AluResult u.bits) : NextMeetsInv (integerConvert len src des op s) :=
  finish_meetsInv <| (readField_meetsInv h _ _).bind fun _ _ h => (openWritten_meetsInv h _ _).bind fun _ _ h =>
    (writePlace_meetsInv h _ _ _).bind fun _ _ h =>
      deliverOverflow_meetsInv ((h.setFlags _).withPs (withFp_reserved _ _ _ _ _ (h.setFlags _).status)) _ _

theorem moveInteger_meetsInv {t : OpType} (h : s.Inv) (len : Nat) (src des : Mode t) :
    NextMeetsInv (moveInteger len src des s) :=
  finish_meetsInv <| (readField_meetsInv h _ _).bind fun _ _ h => (openWritten_meetsInv h _ _).bind fun _ _ h =>
    (writePlace_meetsInv h _ _ _).bind fun _ _ h => h.advance len

theorem storeFloat_meetsInv (h : s.Inv) (len : Nat) (t : OpType) (p : Place) (r : FpResult) :
    (storeFloat len t p r s).MeetsInv := by
  cases r with
  | invalid => exact h.withPs (withFp_withCond_reserved _ _ _ _ _ _ _ _ _ _ h.status)
  | zeroDivide => exact h.withPs (withFp_withCond_reserved _ _ _ _ _ _ _ _ _ _ h.status)
  | value b n z ix uf ovf =>
    refine (writePlace_meetsInv h _ _ _).bind fun _ s1 h => ?_
    have hf : ({ s1 with ps := Ps.ofFloat s1.ps n z ix uf ovf } : State).Inv :=
      h.withPs (withFp_withCond_reserved _ _ _ _ _ _ _ _ _ _ h.status)
    dsimp only
    split
    · exact hf
    · split
      · exact hf
      · split
        · exact hf
        · exact hf.advance len

theorem floatModify_meetsInv {t : OpType} (h : s.Inv) (len : Nat) (src des : Mode t)
    (op : BitVec 2 → Nat → Nat → Nat → FpResult) : NextMeetsInv (floatModify len src des op s) :=
  finish_meetsInv <| (readField_meetsInv h _ _).bind fun _ _ h => (openModified_meetsInv h _ _).bind fun _ _ h =>
    storeFloat_meetsInv (h.withFr _) _ _ _ _

theorem floatWrite_meetsInv {t u : OpType} (h : s.Inv) (len : Nat) (src : Mode t) (des : Mode u)
    (op : BitVec 2 → Nat → Nat → FpResult) : NextMeetsInv (floatWrite len src des op s) :=
  finish_meetsInv <| (readField_meetsInv h _ _).bind fun _ _ h => (openWritten_meetsInv h _ _).bind fun _ _ h =>
    storeFloat_meetsInv (h.withFr _) _ _ _ _

theorem floatFromInteger_meetsInv {t u : OpType} (h : s.Inv) (len : Nat) (src : Mode t) (des : Mode u) :
    NextMeetsInv (floatFromInteger len src des s) :=
  finish_meetsInv <| (readField_meetsInv h _ _).bind fun _ _ h => (openWritten_meetsInv h _ _).bind fun _ _ h =>
    storeFloat_meetsInv (h.withFr _) _ _ _ _

theorem floatCompare_meetsInv {t : OpType} (h : s.Inv) (len : Nat) (src des : Mode t) :
    NextMeetsInv (floatCompare len src des s) := by
  refine finish_meetsInv <| (readField_meetsInv h _ _).bind fun _ _ h =>
    (readSecond_meetsInv h _ _ _).bind fun _ _ h => State.Inv.advance ?_ len
  exact { h with status := withFp_withCond_reserved _ _ _ _ _ _ _ _ _ _ h.status }

theorem moveFloat_meetsInv {t : OpType} (h : s.Inv) (len : Nat) (src des : Mode t) :
    NextMeetsInv (moveFloat len src des s) :=
  finish_meetsInv <| (readField_meetsInv h _ _).bind fun _ _ h => (openWritten_meetsInv h _ _).bind fun _ _ h =>
    (writePlace_meetsInv (h.withFr _) _ _ _).bind fun _ _ h => h.advance len

/-! ### Control transfer (44) -/

/-- Clearing or setting PS.REP keeps the invariant. -/
theorem State.Inv.withRep (h : s.Inv) (mode : BitVec 2) : ({ s with ps := Ps.withRep s.ps mode } : State).Inv :=
  h.withPs (withRep_reserved mode h.status)

theorem branch_meetsInv (h : s.Inv) (len : Nat) (signed : Bool) (cond : Word → Bool) (src : Mode .address) :
    NextMeetsInv (branch len signed cond src s) := by
  refine finish_meetsInv <| (addressOf_meetsInv (h.withRep 0) _ _).bind fun t _ h => ?_
  split
  · exact h.withPs (setBit_and_eq_zero _ h.status (by decide))
  · split
    · exact h.jumpTo t
    · exact h.advance len

theorem execJmp_meetsInv (h : s.Inv) (src : Mode .address) : NextMeetsInv (execJmp src s) :=
  finish_meetsInv <| (addressOf_meetsInv (h.withRep 0) _ _).bind fun _ _ h => { h with }

theorem execCall_meetsInv (h : s.Inv) (src : Mode .address) : NextMeetsInv (execCall src s) :=
  finish_meetsInv <| (addressOf_meetsInv (h.withRep 0) _ _).bind fun t _ h =>
    (push_meetsInv h _).bind fun _ _ h => h.jumpTo t

theorem execRet_meetsInv (h : s.Inv) : NextMeetsInv (execRet s) :=
  finish_meetsInv <| (pop_meetsInv (h.withRep 0)).bind fun t _ h => h.jumpTo t

theorem execRetp_meetsInv (h : s.Inv) (src : Mode .word) : NextMeetsInv (execRetp src s) :=
  finish_meetsInv <| (readField_meetsInv (h.withRep 0) _ _).bind fun _ _ h => (pop_meetsInv h).bind fun t _ h =>
    (h.withSp _).jumpTo t

theorem repeatPrefix_meetsInv (h : s.Inv) (len : Nat) (mode : BitVec 2) (z : Bool → Bool) (src : Mode .address) :
    NextMeetsInv (repeatPrefix len mode z src s) := by
  refine finish_meetsInv <| (locateField_meetsInv h _ _ _).bind fun p s1 h => ?_
  cases p with
  | reg r =>
    have hz : setBit s1.ps 2 (z (Ps.z s1.ps)) &&& Ps.reservedMask = 0 := setBit_and_eq_zero _ h.status (by decide)
    exact { h with status := withRep_reserved mode (withRepReg_reserved r hz) }
  | value v => exact h
  | mem a => exact h

/-! ### Communication (46) -/

theorem execLptr_meetsInv (h : s.Inv) (src : Mode .word) (des : Mode .byte) : NextMeetsInv (execLptr src des s) := by
  refine finish_meetsInv <| (readField_meetsInv h _ _).bind fun v _ h =>
    (readField_meetsInv h _ _).bind fun n s2 h => ?_
  dsimp only
  split
  · trivial
  · rename_i p _
    split
    · trivial
    · exact (h.setInPort p (InPort.Even.withAddr (h.inputs p) v)).advance _
  · rename_i p _
    split
    · trivial
    · exact (h.setOutPort p (OutPort.Even.withAddr (h.outputs p) v)).advance _

theorem execLcnt_meetsInv (h : s.Inv) (src : Mode .word) (des : Mode .byte) : NextMeetsInv (execLcnt src des s) := by
  refine finish_meetsInv <| (readField_meetsInv h _ _).bind fun v _ h =>
    (readField_meetsInv h _ _).bind fun n s2 h => ?_
  dsimp only
  split
  · trivial
  · rename_i p _
    split
    · trivial
    · exact ((h.showErrors p false false).setInPort p (InPort.Even.withCount (h.inputs p) v _ _)).advance _
  · rename_i p _
    split
    · trivial
    · exact (h.setOutPort p (OutPort.Even.withCount (h.outputs p) v)).advance _

theorem execBptr_meetsInv (h : s.Inv) (src des : Mode .word) : NextMeetsInv (execBptr src des s) := by
  refine finish_meetsInv <| (readField_meetsInv h _ _).bind fun v _ h =>
    (readField_meetsInv h _ _).bind fun m s2 h => ?_
  split
  · trivial
  · split
    · trivial
    · exact (h.mapSelected m fun _ hq => hq.withAddr v).advance _

theorem execBcnt_meetsInv (h : s.Inv) (src des : Mode .word) : NextMeetsInv (execBcnt src des s) := by
  refine finish_meetsInv <| (readField_meetsInv h _ _).bind fun v _ h =>
    (readField_meetsInv h _ _).bind fun m s2 h => ?_
  dsimp only
  split
  · trivial
  · rename_i hm
    split
    · trivial
    · split
      · trivial
      · split
        · trivial
        · refine State.Inv.advance (State.Inv.withBroadcast
            (h.mapSelected m fun _ hq => hq.withCount v) fun b hb => ?_) _
          split at hb
          · cases hb
            simpa using hm
          · exact h.broadcasts b hb

/-! ### System instructions (45) -/

/-- The model number of a value whose low 24 bits are replaced (10 R23). -/
theorem modelNumber_of_replaced (x y : Word) :
    ((x &&& 0xFF000000) ||| (y &&& 0x00FFFFFF)).extractLsb' 24 8 = x.extractLsb' 24 8 := by
  have kept : (0xFF000000 : Word).extractLsb' 24 8 = BitVec.allOnes 8 := by decide
  have cleared : (0x00FFFFFF : Word).extractLsb' 24 8 = 0#8 := by decide
  rw [BitVec.extractLsb'_or, BitVec.extractLsb'_and, BitVec.extractLsb'_and, kept, cleared, BitVec.and_allOnes,
    BitVec.and_zero, BitVec.or_zero]

/-- What LDPR or its free value writes into CR leaves the model number. -/
theorem State.Inv.withCr (h : s.Inv) (v : Word) :
    ({ s with cr := (s.cr &&& 0xFF000000) ||| (v &&& 0x00FFFFFF) } : State).Inv :=
  { h with model := (modelNumber_of_replaced s.cr v).trans h.model }

/-- What LDPR or its free value writes into PI leaves the board's bit (10 R24). -/
theorem State.Inv.withPi (h : s.Inv) (v : Word) :
    ({ s with pi := (s.pi &&& 0x80000000) ||| (v &&& 0x7FFFFFFF) } : State).Inv :=
  { h with
    board := by
      rw [← h.board]
      simp }

theorem State.Inv.withOe (h : s.Inv) (v : Word) : ({ s with oe := v &&& portMask } : State).Inv :=
  { h with outputEnable := and_portMask v }

theorem State.Inv.withIe (h : s.Inv) (v : Word) : ({ s with ie := v &&& portMask } : State).Inv :=
  { h with inputEnable := and_portMask v }

theorem loadProcessorRegister_meetsInv (h : s.Inv) (k : Byte) (v : Word) :
    (loadProcessorRegister k v s).MeetsInv := by
  unfold loadProcessorRegister
  split
  · exact h.withSp v
  · split
    · trivial
    · exact loadPs_meetsInv h v
  · exact h.withCr v
  · exact h.withPi v
  · exact { h with }
  · exact h.withOe v
  · exact h.withIe v
  · exact h

theorem execLdpr_meetsInv (h : s.Inv) (src : Mode .word) (des : Mode .byte) : NextMeetsInv (execLdpr src des s) :=
  finish_meetsInv <| (readField_meetsInv h _ _).bind fun v _ h => (readField_meetsInv h _ _).bind fun k _ h =>
    (loadProcessorRegister_meetsInv h k v).bind fun _ _ h => h.advance _

theorem execStpr_meetsInv (h : s.Inv) (src : Mode .byte) (des : Mode .word) : NextMeetsInv (execStpr src des s) :=
  finish_meetsInv <| (readField_meetsInv h _ _).bind fun _ _ h => (openWritten_meetsInv h _ _).bind fun _ _ h =>
    storeInteger_meetsInv h _ _ _

theorem execMova_meetsInv (h : s.Inv) (src : Mode .address) (des : Mode .word) : NextMeetsInv (execMova src des s) :=
  finish_meetsInv <| (addressOf_meetsInv h _ _).bind fun _ _ h => (openWritten_meetsInv h _ _).bind fun _ _ h =>
    (writePlace_meetsInv h _ _ _).bind fun _ _ h => h.advance _

theorem softwareInterrupt_meetsInv (h : s.Inv) (s0 : State) (len n : Nat) :
    NextMeetsInv (softwareInterrupt s0 len n s) := by
  have he := enterOnly_meetsInv h n (s0.pc + BitVec.ofNat 32 len)
  unfold softwareInterrupt
  generalize enterOnly n (s0.pc + BitVec.ofNat 32 len) s = o at he
  cases o with
  | next t => exact checkStack_meetsInv he _ _
  | fault f => trivial
  | refused r => trivial

theorem execTrap_meetsInv (h : s.Inv) (src : Mode .byte) : NextMeetsInv (execTrap src s) := by
  have hr := readField_meetsInv h s.sp src
  unfold execTrap
  generalize readField s.sp src s = r at hr
  cases r with
  | ok n t => exact softwareInterrupt_meetsInv hr _ _ _
  | exc n t => exact finish_exc_meetsInv hr n
  | refused r => trivial

theorem execReti_meetsInv (h : s.Inv) : NextMeetsInv (execReti s) :=
  finish_meetsInv <| (popReturn_meetsInv h).bind fun _ _ h => { h with }

theorem execRett_meetsInv (h : s.Inv) : NextMeetsInv (execRett s) :=
  finish_meetsInv <| (popReturn_meetsInv h).bind fun _ _ h => { h with }

/-- An instruction that only writes one bit of PS, which is not reserved, and goes on. -/
theorem setBit_advance_meetsInv (h : s.Inv) (i len : Nat) (b : Bool) (hi : Ps.reservedMask.getLsbD i = false) :
    NextMeetsInv (finish s (.ok () ({ s with ps := setBit s.ps i b }.advance len))) :=
  finish_ok_meetsInv <| (h.withPs (setBit_and_eq_zero b h.status hi)).advance len

/-- Every instruction keeps the invariant, however it ends. -/
theorem exec_meetsInv (h : s.Inv) (i : Instr) : NextMeetsInv (exec i s) := by
  unfold exec
  cases i with
  | addb | addh | addw | adcb | adch | adcw | subb | subh | subw | sbbb | sbbh | sbbw | sbrb | sbrh | sbrw
  | mulb | mulh | mulw | adcd | sbbd | andb | andh | andw | orb | orh | orw | xorb | xorh | xorw
  | sftb | sfth | sftw | sfab | sfah | sfaw | rotb | roth | rotw => exact integerModify_meetsInv h _ _ _ _
  | divb | divh | divw | dvrb | dvrh | dvrw | remb | remh | remw => exact integerDivide_meetsInv h _ _ _ _
  | negb | negh | negw | notb | noth | notw | ffob | ffoh | ffow => exact integerWrite_meetsInv h _ _ _ _
  | cmpb | cmph | cmpw | bitb | bith | bitw => exact integerCompare_meetsInv h _ _ _ _
  | cvbw | cvhw | cvwb | cvwh => exact integerConvert_meetsInv h _ _ _ _
  | movb | movh | movw => exact moveInteger_meetsInv h _ _ _
  | addr | addl | subr | subl | sbrr | sbrl | mulr | mull | divr | divl | dvrr | dvrl | remr | reml | sgnr
  | sgnl => exact floatModify_meetsInv h _ _ _ _
  | sqtr | sqtl | negr | negl | cvrl | cvlr => exact floatWrite_meetsInv h _ _ _ _
  | cvbr | cvhr | cvbl | cvhl | cvwl => exact floatFromInteger_meetsInv h _ _ _
  | cmpr | cmpl => exact floatCompare_meetsInv h _ _ _
  | movr | movl => exact moveFloat_meetsInv h _ _ _
  | bv | bnv | be | bne | bg | bge | bl | ble | bgu | bgeu | blu | bleu => exact branch_meetsInv h _ _ _ _
  | rep | repz | repnz => exact repeatPrefix_meetsInv h _ _ _ _
  | clc | stc | cmc | ei | di => exact setBit_advance_meetsInv h _ _ _ (by decide)
  | res | esc => exact finish_exc_meetsInv h 10
  | nop => exact finish_ok_meetsInv (h.advance _)
  | eron | erof | wait => exact finish_ok_meetsInv { h with }
  | rset => exact finish_ok_meetsInv (h.resetPorts.advance _)
  | mova => exact execMova_meetsInv h _ _
  | jmp => exact execJmp_meetsInv h _
  | call => exact execCall_meetsInv h _
  | ret => exact execRet_meetsInv h
  | retp => exact execRetp_meetsInv h _
  | ldpr => exact execLdpr_meetsInv h _ _
  | stpr => exact execStpr_meetsInv h _ _
  | trap => exact execTrap_meetsInv h _
  | bkpt => exact softwareInterrupt_meetsInv h _ _ _
  | reti => exact execReti_meetsInv h
  | rett => exact execRett_meetsInv h
  | lptr => exact execLptr_meetsInv h _ _
  | lcnt => exact execLcnt_meetsInv h _ _
  | bptr => exact execBptr_meetsInv h _ _
  | bcnt => exact execBcnt_meetsInv h _ _

end

end Sys2Proof.Machine
end

section
/-! SUPPORT. Every step keeps the invariant (O6): the pre-test, the fetch, abandoned instructions, interrupts and
turns. -/

namespace Sys2Proof.Machine

section

variable {s : State}

/-! ### The pre-test of a REPEAT, and the fetch (44 R311; 30 R116) -/

theorem skipRepeated_meetsInv (h : s.Inv) (i : Instr) : NextMeetsInv (skipRepeated i s) := by
  refine finish_meetsInv <| (fetchFields_meetsInv (h.withRep 0) _).bind fun _ _ h => ?_
  split
  · exact h
  · exact h.advance _

theorem runRepeated_meetsInv (h : s.Inv) (i : Instr) : NextMeetsInv (runRepeated i s) := by
  unfold runRepeated
  split
  · trivial
  · split
    · exact skipRepeated_meetsInv h i
    · exact exec_meetsInv (h.setReg _ _) i

theorem begin_meetsInv (h : s.Inv) (i : Instr) : NextMeetsInv (begin i s) := by
  unfold begin
  split
  · exact runRepeated_meetsInv h i
  · exact exec_meetsInv h i

theorem fetchOpcode_meetsInv (h : s.Inv) : (fetchOpcode s).MeetsInv := fetchAccess_meetsInv h _ _

theorem runFetched_meetsInv (h : s.Inv) (i : Instr) : NextMeetsInv (runFetched i s) := by
  have hf := fetchOpcode_meetsInv h
  unfold runFetched
  split
  · trivial
  · generalize fetchOpcode s = r at hf
    cases r with
    | ok _ t => exact begin_meetsInv hf i
    | exc n t => exact finish_exc_meetsInv hf n
    | refused r => trivial

theorem runAtPc_meetsInv (h : s.Inv) : NextMeetsInv (runAtPc s) := by
  unfold runAtPc
  split
  · exact runFetched_meetsInv h _
  · split
    · trivial
    · exact runFetched_meetsInv h _
  · split
    · trivial
    · exact finish_exc_meetsInv h 11

/-! ### Abandoned instructions (60 R419; log 21) -/

theorem evaluateField_meetsInv (h : s.Inv) (sp0 : Word) (first : Option Field) (f : Field) :
    (evaluateField sp0 first f s).MeetsInv := by
  unfold evaluateField
  split
  · exact (openWritten_meetsInv h _ _).bind fun _ _ h => h
  · exact (openModified_meetsInv h _ _).bind fun _ _ h => h
  · exact (locateField_meetsInv h _ _ _).bind fun _ _ h => stepRegister_inv h _
  · exact (locateField_meetsInv h _ _ _).bind fun _ _ h => h
  · exact (readSecond_meetsInv h _ _ _).bind fun _ _ h => h
  · exact (readField_meetsInv h _ _).bind fun _ _ h => h
  · exact (readField_meetsInv h _ _).bind fun _ _ h => h

theorem fieldTouched_meetsInv (h : s.Inv) (sp0 : Word) (first : Option Field) (f : Field) :
    (fieldTouched sp0 first f s).MeetsInv := by
  have he := evaluateField_meetsInv h sp0 first f
  unfold fieldTouched
  generalize evaluateField sp0 first f s = r at he
  cases r with
  | ok p t => exact he
  | exc n t => exact he
  | refused r => trivial

theorem fieldsTouched_meetsInv (h : s.Inv) (sp0 : Word) (first : Option Field) (fs : List Field) :
    (fieldsTouched sp0 first fs s).MeetsInv := by
  induction fs generalizing first s with
  | nil => exact h
  | cons f fs ih =>
    refine (fieldTouched_meetsInv h _ _ _).bind fun w _ h => ?_
    split
    · exact (ih h _).bind fun _ _ h => h
    · exact h

/-- Ranges of bytes that exist. -/
def RangesInside (l : List (Nat × Nat)) : Prop := ∀ r ∈ l, r.1 + r.2 ≤ memoryBytes

theorem RangesInside.append {l k : List (Nat × Nat)} (hl : RangesInside l) (hk : RangesInside k) :
    RangesInside (l ++ k) := fun r hr => (List.mem_append.1 hr).elim (hl r) (hk r)

/-- The bytes of a destination that counts as touched exist (20 R64). -/
theorem destinationTouched_inside (t : OpType) (p : Option Place) : RangesInside (destinationTouched t p).ranges := by
  unfold destinationTouched RangesInside
  split
  · simp
  · split
    · rename_i a hi
      simpa using (inMemory_iff a t.len).1 hi
    · simp
  · simp

theorem fieldTouched_inside {sp0 : Word} {first : Option Field} {f : Field} {t : State} {w : Touched}
    (h : fieldTouched sp0 first f s = .ok w t) : RangesInside w.ranges := by
  unfold fieldTouched at h
  split at h
  · cases h
    exact destinationTouched_inside _ _
  · cases h
    exact nofun
  · cases h

/-- The bytes that the fields of an abandoned instruction could have written exist. -/
theorem fieldsTouched_inside {sp0 : Word} {first : Option Field} {fs : List Field} {t : State} {w : Touched}
    (h : fieldsTouched sp0 first fs s = .ok w t) : RangesInside w.ranges := by
  induction fs generalizing first s w with
  | nil =>
    cases h
    exact nofun
  | cons f fs ih =>
    obtain ⟨w1, s1, h1, h2⟩ := Res.bind_eq_ok.1 h
    have hw := fieldTouched_inside h1
    split at h2
    · obtain ⟨v, s2, h3, h4⟩ := Res.bind_eq_ok.1 h2
      cases h4
      exact hw.append (ih h3)
    · cases h2
      exact hw

/-- The Words that an abandoned instruction could have pushed lie in memory (20 R64). -/
theorem pushedWords_inside (i : Instr) (sp : Word) : RangesInside (pushedWords i sp) := by
  intro r hr
  obtain ⟨a, ha, rfl⟩ := List.mem_map.1 hr
  have hi := List.mem_takeWhile_imp ha
  exact (inMemory_iff a 4).1 hi

theorem scrambleBytes_inv (h : s.Inv) (a n : Nat) (ha : a + n ≤ memoryBytes) : (scrambleBytes s a n).Inv := by
  induction n generalizing a s with
  | zero => exact h
  | succ n ih => exact ih (h.store _ _ (by omega)) _ (by omega)

theorem scrambleRanges_inv (h : s.Inv) {l : List (Nat × Nat)} (hl : RangesInside l) :
    (l.foldl (fun t r => scrambleBytes t r.1 r.2) s).Inv := by
  induction l generalizing s with
  | nil => exact h
  | cons r l ih =>
    exact ih (scrambleBytes_inv h _ _ (hl r (List.mem_cons_self ..))) fun q hq => hl q (List.mem_cons_of_mem _ hq)

theorem scrambleRegisters_inv (h : s.Inv) (rs : List Reg) : (scrambleRegisters s rs).Inv := by
  induction rs generalizing s with
  | nil => exact h
  | cons r rs ih => exact ih (h.setReg _ _)

/-- No instruction writes a reserved bit of PS (10 R20). -/
theorem statusBits_reserved (i : Instr) (ps : Word) : statusBits i ps &&& Ps.reservedMask = 0 := by
  unfold statusBits
  split <;> (try split) <;> rfl

theorem psMask_reserved (i : Instr) (ps : Word) (w : Touched) (sp : Word) :
    psMask i ps w sp &&& Ps.reservedMask = 0 := by
  unfold psMask
  refine or_and_eq_zero ?_ ?_
  · split <;> rfl
  · split
    · exact statusBits_reserved i ps
    · rfl

theorem scramblePs_inv (h : s.Inv) (which : Nat) {mask : Word} (hm : mask &&& Ps.reservedMask = 0) :
    (scramblePs which mask s).Inv :=
  h.withPs (or_and_eq_zero (and_and_eq_zero_left _ h.status) (and_and_eq_zero _ hm))

theorem scrambleProcessorRegister_inv (h : s.Inv) (k : Byte) : (scrambleProcessorRegister k s).Inv := by
  unfold scrambleProcessorRegister
  dsimp only
  split
  · exact h.withSp _
  · exact h.withPs (and_and_eq_zero _ (by decide))
  · exact h.withCr _
  · exact h.withPi _
  · exact { h with }
  · exact h.withOe _
  · exact h.withIe _
  · exact h

theorem scramblePort_inv (h : s.Inv) (count : Bool) (n : Byte) : (scramblePort count n s).Inv := by
  unfold scramblePort
  split
  · exact h
  · dsimp only
    split
    · exact (h.showErrors _ _ _).setInPort _ (InPort.Even.withCount (h.inputs _) _ _ _)
    · exact h.setInPort _ (InPort.Even.withAddr (h.inputs _) _)
  · refine h.setOutPort _ ?_
    split
    · exact OutPort.Even.withCount (h.outputs _) _
    · exact OutPort.Even.withAddr (h.outputs _) _

theorem scrambleSelected_inv (h : s.Inv) (count : Bool) (m : Word) : (scrambleSelected count m s).Inv := by
  refine (h.withOutPorts fun p => ?_).withBroadcast fun b hb => ?_
  · dsimp only
    split
    · exact h.outputs p
    · split
      · exact OutPort.Even.withCount (h.outputs p) _
      · exact OutPort.Even.withAddr (h.outputs p) _
  · split at hb
    · exact h.broadcasts b hb
    · split at hb
      · cases hb
        exact and_portMask _
      · cases hb

theorem scramblePorts_inv (h : s.Inv) : (scramblePorts s).Inv :=
  { h with
    outputEnable := and_portMask _
    inputEnable := and_portMask _
    parity := and_portMask _
    overrun := and_portMask _
    inputs := fun p => by
      simp only [scramblePorts, Vector.get_eq_getElem, Vector.getElem_ofFn]
      exact ⟨getLsbD_zero_evenPart _, getLsbD_zero_evenPart _⟩
    outputs := fun p => by
      simp only [scramblePorts, Vector.get_eq_getElem, Vector.getElem_ofFn]
      exact ⟨getLsbD_zero_evenPart _, getLsbD_zero_evenPart _⟩
    broadcasts := fun m hm => by
      simp only [scramblePorts] at hm
      split at hm
      · cases hm
        exact and_portMask _
      · cases hm }

theorem scrambleSpecial_inv (h : s.Inv) (i : Instr) (s0 : State) : (scrambleSpecial i s0 s).Inv := by
  unfold scrambleSpecial
  dsimp only
  split
  · split
    · exact scrambleProcessorRegister_inv h _
    · exact h
  · split
    · exact scramblePort_inv h _ _
    · exact h
  · split
    · exact scramblePort_inv h _ _
    · exact h
  · split
    · exact scrambleSelected_inv h _ _
    · exact h
  · split
    · exact scrambleSelected_inv h _ _
    · exact h
  · exact { h with }
  · exact { h with }
  · split
    · exact { h with }
    · exact h
  · exact scramblePorts_inv h
  · split
    · exact h.withFr _
    · exact h

theorem abandonedExecution_meetsInv (h : s.Inv) (i : Instr) : (abandonedExecution i s).MeetsInv := by
  unfold abandonedExecution
  split
  · exact h
  · refine (fieldsTouched_meetsInv h _ _ _).bind_of_eq fun w s1 hw h => ?_
    have pushed : RangesInside (if w.evaluated then pushedWords i s1.sp else []) := by
      split
      · exact pushedWords_inside i s1.sp
      · exact nofun
    have hb := scrambleRanges_inv h ((fieldsTouched_inside hw).append pushed)
    have hp (rs : List Reg) (v : Word) := scramblePs_inv ((scrambleRegisters_inv hb rs).withSp v) 2
      (psMask_reserved i s.ps w s1.sp)
    exact State.Inv.ite (scrambleSpecial_inv (hp _ _) i s) (hp _ _)

theorem abandoned_meetsInv (h : s.Inv) (i : Instr) : (abandoned i s).MeetsInv := by
  unfold abandoned
  split
  · exact (fetchFields_meetsInv h _).bind fun _ _ h => scramblePs_inv h 2 (by decide)
  · exact abandonedExecution_meetsInv h i

theorem State.Inv.noteUncorrectable (h : s.Inv) (again : Bool) : (s.noteUncorrectable again).Inv := { h with }

theorem errorInEntry_meetsInv {o : Host.Outcome State Fault Refusal} (h : NextMeetsInv o) (s0 : State) :
    NextMeetsInv (errorInEntry s0 o) := by
  cases o with
  | next t =>
    simp only [errorInEntry]
    split
    · exact h
    · exact State.Inv.noteUncorrectable h _
  | fault f => trivial
  | refused r => trivial

theorem correctedInEntry_meetsInv {o : Host.Outcome State Fault Refusal} (h : NextMeetsInv o) :
    NextMeetsInv (correctedInEntry o) := by
  cases o with
  | next t =>
    simp only [correctedInEntry]
    split
    · exact h
    · exact { h with }
  | fault f => trivial
  | refused r => trivial

theorem abandonFetched_meetsInv (h : s.Inv) (i : Instr) : NextMeetsInv (abandonFetched i s) := by
  have hr := (fetchOpcode_meetsInv h).bind fun _ _ h => abandoned_meetsInv h i
  unfold abandonFetched
  split
  · trivial
  · generalize (fetchOpcode s).bind _ = r at hr
    cases r with
    | ok _ t => exact State.Inv.noteUncorrectable hr _
    | exc n t => exact State.Inv.noteUncorrectable hr _
    | refused r => trivial

theorem abandonAtPc_meetsInv (h : s.Inv) : NextMeetsInv (abandonAtPc s) := by
  unfold abandonAtPc
  split
  · exact abandonFetched_meetsInv h _
  · exact abandonFetched_meetsInv h _
  · exact errorInEntry_meetsInv (runAtPc_meetsInv h) s

/-! ### Turns and steps (60 R402) -/

/-- The pending errors are no part of the invariant. -/
theorem State.Inv.withPending (h : s.Inv) (ce ue marker : Bool) :
    ({ s with cePending := ce, uePending := ue, ueMarker := marker } : State).Inv := { h with }

theorem takeInterrupt_meetsInv (h : s.Inv) (n : Nat) : NextMeetsInv (takeInterrupt n s) :=
  enter_meetsInv (h.withPending _ _ _) n s.pc

theorem State.Inv.prepared (h : s.Inv) (corrected : Bool) : (s.prepared corrected).Inv := { h with }

theorem activeTurn_meetsInv (h : s.Inv) (eccs : List Ecc) : NextMeetsInv (activeTurn eccs s) := by
  unfold activeTurn
  split
  · rename_i n _
    have entered : NextMeetsInv
        (if correctedIn eccs then correctedInEntry (takeInterrupt n s) else takeInterrupt n s) := by
      split
      · exact correctedInEntry_meetsInv (takeInterrupt_meetsInv h n)
      · exact takeInterrupt_meetsInv h n
    dsimp only
    split
    · exact errorInEntry_meetsInv entered s
    · exact entered
  · split
    · exact h
    · split
      · exact abandonAtPc_meetsInv (h.prepared _)
      · exact runAtPc_meetsInv (h.prepared _)

theorem processorTurn_meetsInv (h : s.Inv) (eccs : List Ecc) : NextMeetsInv (processorTurn eccs s) := by
  unfold processorTurn
  split
  · trivial
  · exact activeTurn_meetsInv h eccs

theorem moveTurn_meetsInv (h : s.Inv) (m : Move) : NextMeetsInv (moveTurn m s) := by
  have hm := agentMove_meetsInv h m
  unfold moveTurn
  split
  · trivial
  · generalize agentMove m s = r at hm
    cases r with
    | ok _ t => exact hm
    | exc n t => exact hm
    | refused r => trivial

theorem stepReset_inv (s : State) : (stepReset s).Inv := { State.resetNode_inv with }

/-- The choice of the environment that a step takes is no part of the invariant. -/
theorem State.Inv.withSchedule (h : s.Inv) (l : List Event) : ({ s with schedule := l } : State).Inv := { h with }

theorem step_meetsInv (h : s.Inv) : NextMeetsInv (step s) := by
  unfold step
  split
  · exact processorTurn_meetsInv (h.withDuring []) []
  · rename_i eccs d rest _
    exact processorTurn_meetsInv ((h.withSchedule rest).withDuring d) eccs
  · exact moveTurn_meetsInv (h.withSchedule _) _
  · exact stepReset_inv _

end

/-- Settles O6: every part of a step, whether it answers or raises an exception, keeps the invariant. -/
theorem everyStepKeepsTheInvariant : Obligations.EveryStepKeepsTheInvariant := by
  intro s t h hst
  have hn := step_meetsInv h
  rw [hst] at hn
  exact hn

end Sys2Proof.Machine
end

section
/-! SUPPORT. How an instruction meets the fault of an address field (O15, O60): 30 R114, R116; 60 R415, R417. -/

namespace Sys2Proof.Machine

/-! ### Fields that fault (30 R116) -/

/-- An exception of a first part stays whatever the part after it is, where the part after it raised none. -/
theorem Res.bind_eq_exc_of_bind {α β γ : Type} {x : Res α} {f : α → State → Res β} {n : Nat} {t : State}
    (h : x.bind f = .exc n t) (hf : ∀ a s, f a s ≠ .exc n t) (g : α → State → Res γ) : x.bind g = .exc n t := by
  rcases Res.bind_eq_exc.1 h with h | ⟨a, s, -, h⟩
  · rw [h]
    rfl
  · exact absurd h (hf a s)

/-- An instruction of two fields that reads its first one evaluates both, in their order, before anything else. -/
theorem exec_of_two_fields {i : Instr} {f g : Field} (h : i.fields = [f, g]) (hf : f.access = .r) (s : State) :
    ∃ K : BitVec f.type.bits → State → Res Unit, exec i s = finish s ((readField s.sp f.mode s).bind K) ∧
      ∀ a s1 n t, evaluateField s.sp (some f) g s1 = .exc n t → K a s1 = .exc n t := by
  cases i <;> cases h
  case mova => cases hf
  all_goals exact ⟨_, rfl, fun _ _ _ _ e => Res.bind_eq_exc_of_bind e (fun _ _ => nofun) _⟩

/-- An instruction has at most two fields (30 R95). -/
theorem fields_eq_one_or_two {i : Instr} {f : Field} {fs : List Field} (h : i.fields = f :: fs) :
    fs = [] ∨ ∃ g, fs = [g] := by
  cases i <;> cases h <;> simp

/-- An instruction whose first field is read ends with the exception that the field raises; RETP has changed PS
before it (44 R307). -/
theorem exec_of_readField_exc {i : Instr} {f : Field} {fs : List Field} {s t : State} {n : Nat}
    (h : i.fields = f :: fs) (hf : f.access = .r) (hi : ∀ m, i ≠ .retp m)
    (he : readField s.sp f.mode s = .exc n t) : exec i s = finish s (.exc n t) := by
  rcases fields_eq_one_or_two h with rfl | ⟨g, rfl⟩
  · cases i with
    | trap m => cases h; simp only [exec, execTrap, he]
    | retp m => exact absurd rfl (hi m)
    | _ => cases h <;> cases hf
  · obtain ⟨K, hK, -⟩ := exec_of_two_fields h hf s
    rw [hK, he]
    rfl

/-- An instruction of two fields that has read its first one ends with the exception that the second one raises. -/
theorem exec_of_evaluateField_exc {i : Instr} {f g : Field} {s s1 t : State} {v : BitVec f.type.bits} {n : Nat}
    (h : i.fields = [f, g]) (hf : f.access = .r) (hv : readField s.sp f.mode s = .ok v s1)
    (he : evaluateField s.sp (some f) g s1 = .exc n t) : exec i s = finish s (.exc n t) := by
  obtain ⟨K, hK, hg⟩ := exec_of_two_fields h hf s
  rw [hK, hv, Res.ok_bind, hg v s1 n t he]

/-- RETP reads its operand with PS.REP cleared (44 R307, R313). -/
theorem exec_retp_of_exc {src : Mode .word} {s t : State} {n : Nat}
    (h : readField s.sp src { s with ps := Ps.withRep s.ps 0 } = .exc n t) :
    exec (.retp src) s = finish s (.exc n t) := by
  simp only [exec, execRetp, h, Res.exc_bind]

/-- MOVA evaluates its address field first (42 R212). -/
theorem exec_mova_of_exc {src : Mode .address} {s t : State} {n : Nat} (des : Mode .word)
    (h : addressOf s.sp src s = .exc n t) : exec (.mova src des) s = finish s (.exc n t) := by
  simp only [exec, execMova, h, Res.exc_bind]

/-- MOVA then opens its destination (42 R212). -/
theorem exec_mova_of_openWritten_exc {src : Mode .address} {des : Mode .word} {s s1 t : State} {a : Word} {n : Nat}
    (ha : addressOf s.sp src s = .ok a s1) (h : openWritten s.sp des s1 = .exc n t) :
    exec (.mova src des) s = finish s (.exc n t) := by
  simp only [exec, execMova, ha, h, Res.ok_bind, Res.exc_bind]

/-- The instructions whose only field is an address that they jump to, or may jump to. -/
def addressTransfers : List (Mode .address → Instr) :=
  [.jmp, .call, .bv, .bnv, .be, .bne, .bg, .bge, .bl, .ble, .bgu, .bgeu, .blu, .bleu]

/-- They evaluate it with PS.REP cleared, before anything else (44 R290, R304, R305, R313). -/
theorem exec_transfer_of_exc {mk : Mode .address → Instr} (hm : mk ∈ addressTransfers) {src : Mode .address}
    {s t : State} {n : Nat} (h : addressOf s.sp src { s with ps := Ps.withRep s.ps 0 } = .exc n t) :
    exec (mk src) s = finish s (.exc n t) := by
  simp only [addressTransfers, List.mem_cons, List.not_mem_nil, or_false] at hm
  rcases hm with rfl | rfl | rfl | rfl | rfl | rfl | rfl | rfl | rfl | rfl | rfl | rfl | rfl | rfl <;>
    exact congrArg (finish s) (congrArg (Res.bind · _) h)

/-! ### Illegal fields (30 R114) -/

/-- An operand that is only a value is legal where an operand that is read is. -/
theorem modeIllegal_v {t : OpType} (m : Mode t) : modeIllegal .v m = modeIllegal .r m := by
  cases m
  case truncated b => cases b <;> rfl
  all_goals rfl

/-- Of an illegal field one byte is fetched, the mode byte (30 R123). -/
theorem fetchField_of_illegal {t : OpType} {k : Access} {m : Mode t} (h : modeIllegal k m = true) (s : State) :
    fetchField k m s = fetchAccess s.nextByte 1 s := by
  have size : fetchedSize k m = 1 := by
    rw [fetchedSize, if_pos h]
    cases m
    case truncated b => cases b <;> simp_all [modeIllegal, Mode.size]
    all_goals simp [Mode.size]
  unfold fetchField
  rw [size]

theorem locate_of_illegal {t : OpType} {k : Access} {m : Mode t} (h : modeIllegal k m = true) (sp0 : Word)
    (s : State) : locate k sp0 m s = .exc 16 s := by
  unfold locate
  exact if_pos h

/-- An illegal field is Operand Error once its mode byte is fetched. -/
theorem locateField_of_illegal {t : OpType} {k : Access} {m : Mode t} (h : modeIllegal k m = true) {s u : State}
    (hu : fetchAccess s.nextByte 1 s = .ok () u) (sp0 : Word) : locateField k sp0 m s = .exc 16 u := by
  rw [locateField, fetchField_of_illegal h, hu, Res.ok_bind, locate_of_illegal h]

theorem readField_of_illegal {t : OpType} {m : Mode t} (h : modeIllegal .r m = true) {s u : State}
    (hu : fetchAccess s.nextByte 1 s = .ok () u) (sp0 : Word) : readField sp0 m s = .exc 16 u := by
  rw [readField, locateField_of_illegal h hu]
  rfl

theorem openWritten_of_illegal {t : OpType} {m : Mode t} (h : modeIllegal .w m = true) {s u : State}
    (hu : fetchAccess s.nextByte 1 s = .ok () u) (sp0 : Word) : openWritten sp0 m s = .exc 16 u := by
  rw [openWritten, locateField_of_illegal h hu]
  rfl

/-- An address that is a literal or a register is legal, and every other one is found as an operand is. -/
theorem addressOf_of_illegal {m : Mode .address} (h : modeIllegal .a m = true) {s u : State}
    (hu : fetchAccess s.nextByte 1 s = .ok () u) (sp0 : Word) : addressOf sp0 m s = .exc 16 u := by
  rw [addressOf, fetchField_of_illegal h, hu, Res.ok_bind, locate_of_illegal h]
  cases m
  case literal => cases h
  case register => cases h
  all_goals rfl

/-- An illegal second field is Operand Error for every access kind. -/
theorem evaluateField_of_illegal {g : Field} (h : modeIllegal g.access g.mode = true) {s u : State}
    (hu : fetchAccess s.nextByte 1 s = .ok () u) (sp0 : Word) (first : Option Field) :
    evaluateField sp0 first g s = .exc 16 u := by
  obtain ⟨t, k, m⟩ := g
  cases k
  case w => simp only [evaluateField, openWritten_of_illegal h hu, Res.exc_bind]
  case rw => simp only [evaluateField, openModified, locateField_of_illegal h hu, Res.exc_bind]
  case a => simp only [evaluateField, locateField_of_illegal h hu, Res.exc_bind]
  case reg => simp only [evaluateField, locateField_of_illegal h hu, Res.exc_bind]
  case v => simp only [evaluateField, readField_of_illegal ((modeIllegal_v m).symm.trans h) hu, Res.exc_bind]
  case r =>
    cases first with
    | none => simp only [evaluateField, readField_of_illegal h hu, Res.exc_bind]
    | some f => simp only [evaluateField, readSecond, locateField_of_illegal h hu, Res.exc_bind]

/-- A fetch after what is touched touches nothing more. -/
theorem State.Touches.fetch {regs : List Reg} {bytes : Nat → Bool} {stk : Bool} {s t u : State} {a n : Nat}
    (h : State.Touches regs bytes stk s t) (hu : fetchAccess a n t = .ok () u) :
    State.Touches regs bytes stk s u := by
  obtain ⟨hc, hq, -⟩ := fetchAccess_eq_ok hu
  exact (h.trans (hc.touches hq [] (fun _ => false) false)).mono (by simp) (by simp) (by simp)

/-- Where no other agent moves, an instruction whose first field is illegal ends with Operand Error in the state in
which it began, but for PS.REP, which transfers have cleared. -/
theorem exec_of_illegal_first {i : Instr} {f : Field} {fs : List Field} {s : State} (h : i.fields = f :: fs)
    (hf : modeIllegal f.access f.mode = true) (hd : s.during = []) :
    exec i s = finish s (.exc 16 s) ∨ exec i s = finish s (.exc 16 { s with ps := Ps.withRep s.ps 0 }) := by
  have fetch (u : State) (hu : u.during = []) : fetchAccess u.nextByte 1 u = .ok () u := fetchAccess_of_quiet _ _ hu
  have cleared := fetch { s with ps := Ps.withRep s.ps 0 } hd
  cases i with
  | retp m => 
    cases h
    exact .inr (exec_retp_of_exc (readField_of_illegal hf cleared s.sp))
  | mova m des =>
    cases h
    exact .inl (exec_mova_of_exc des (addressOf_of_illegal hf (fetch s hd) s.sp))
  | rep m | repz m | repnz m =>
    cases h
    refine .inl ?_
    simp only [exec, execRep, execRepz, execRepnz, repeatPrefix, locateField_of_illegal hf (fetch s hd), Res.exc_bind]
  | jmp m | call m | bv m | bnv m | be m | bne m | bg m | bge m | bl m | ble m | bgu m | bgeu m | blu m | bleu m =>
    cases h
    exact .inr (exec_transfer_of_exc (by simp [addressTransfers]) (addressOf_of_illegal hf cleared s.sp))
  | _ =>
    cases h <;>
      exact .inl (exec_of_readField_exc rfl rfl (fun _ => nofun) (readField_of_illegal hf (fetch s hd) s.sp))

/-- Settles O15: an illegal field raises Operand Error once its mode byte is fetched, and the instruction ends with
it. -/
theorem illegalFieldsRaiseOperandError : Obligations.IllegalFieldsRaiseOperandError := by
  refine ⟨⟨?_, ?_⟩, ?_, ?_⟩
  · intro t b v n k
    cases k <;> simp [modeIllegal, isWritten]
  · intro i f fs s h hf hd
    have kept (ps : Word) (hps : ps &&& ~~~0xC0000000 = s.ps &&& ~~~0xC0000000) :
        State.SameBut [] (fun _ => false) 0xC0000000 false s { s with ps := ps } :=
      (State.Touches.refl [] (fun _ => false) false s).sameButAll (fr' := s.fr) hps
    rcases exec_of_illegal_first h hf hd with he | he
    · exact ⟨s, he, kept s.ps rfl⟩
    · exact ⟨_, he, kept _ (withRep_and s.ps 0)⟩
  · intro i f g s s1 t v h hf hg hv ht
    exact ⟨exec_of_evaluateField_exc h hf hv (evaluateField_of_illegal hg ht s.sp (some f)),
      ((readField_touches hv).fetch ht).sameBut⟩
  · intro src des s s1 t a hd ha ht
    exact ⟨exec_mova_of_openWritten_exc ha (openWritten_of_illegal hd ht s.sp),
      ((addressOf_touches ha).fetch ht).sameBut⟩

end Sys2Proof.Machine
end

section
/-! SUPPORT. Address Error (O60): operands and destinations outside memory, pops and pushes, and the fetch of the
opcode byte: 20 R64, 60 R415. -/

namespace Sys2Proof.Machine

/-! ### Accesses outside memory (20 R64) -/

theorem readMem_outside {a : Word} {n : Nat} (h : memoryBytes < a.toNat + n) (fp : Bool) (s : State) :
    readMem fp a n s = .exc 11 s := readMem_eq_exc.2 ⟨h, rfl, rfl⟩

theorem writeMem_outside {a : Word} {n : Nat} (h : memoryBytes < a.toNat + n) (fp : Bool) (v : Nat) (s : State) :
    writeMem fp a n v s = .exc 11 s := writeMem_eq_exc.2 ⟨h, rfl, rfl⟩

theorem push_outside {s : State} (h : memoryBytes < (s.sp - 4).toNat + 4) (v : Word) :
    push v s = .exc 11 { s with sp := s.sp - 4 } := writeMem_outside h false v.toNat _

theorem pop_outside {s : State} (h : memoryBytes < s.sp.toNat + 4) : pop s = .exc 11 s := by
  rw [pop, readMem_outside h]
  rfl

/-- A return from interrupt that cannot pop PC (45 R335). -/
theorem popReturn_outside {s : State} (h : memoryBytes < s.sp.toNat + 4) : popReturn s = .exc 11 s := by
  rw [popReturn, pop_outside h]
  rfl

/-- A return from interrupt that pops PC and cannot pop PS (45 R335). -/
theorem popReturn_second_outside {s s1 : State} {w : Nat} (hr : readMem false s.sp 4 s = .ok w s1)
    (h : memoryBytes < (s.sp + 4).toNat + 4) : popReturn s = .exc 11 { s1 with sp := s.sp + 4 } := by
  have first : pop s = .ok (BitVec.ofNat 32 w) { s1 with sp := s.sp + 4 } := by
    rw [pop, hr, Res.ok_bind, (readMem_core hr).2.1.sp]
  rw [popReturn, first, Res.ok_bind, pop_outside h]
  rfl

/-! ### Operands outside memory (30 R100, R116 to R119) -/

section
variable {t : OpType} {a : Word} (ha : memoryBytes < a.toNat + t.len)
include ha

theorem readPlace_outside (s : State) : readPlace t (.mem a) s = .exc 11 s := by
  rw [readPlace, readMem_outside ha]
  rfl

theorem writePlace_outside (v : BitVec t.bits) (s : State) : writePlace t (.mem a) v s = .exc 11 s :=
  writeMem_outside ha t.isFp v.toNat s

theorem readField_outside {sp0 : Word} {m : Mode t} {s s1 : State} (h : locateField .r sp0 m s = .ok (.mem a) s1) :
    readField sp0 m s = .exc 11 s1 := by
  rw [readField, h, Res.ok_bind, readPlace_outside ha]
  rfl

theorem readSecond_outside {sp0 : Word} {m : Mode t} {s s1 : State} (h : locateField .r sp0 m s = .ok (.mem a) s1)
    {u : OpType} (src : Mode u) : readSecond sp0 src m s = .exc 11 s1 := by
  rw [readSecond, h, Res.ok_bind, readPlace_outside ha]
  rfl

theorem openModified_outside {sp0 : Word} {m : Mode t} {s s1 : State}
    (h : locateField .rw sp0 m s = .ok (.mem a) s1) : openModified sp0 m s = .exc 11 s1 := by
  rw [openModified, h, Res.ok_bind, readPlace_outside ha]
  rfl

theorem storeInteger_outside (len : Nat) (r : AluResult t.bits) (s : State) :
    storeInteger len t (.mem a) r s = .exc 11 s := by
  rw [storeInteger, writePlace_outside ha]
  rfl

/-- A floating-point result that is a value is not stored outside memory, and no flag is written. -/
theorem storeFloat_outside (len : Nat) {r : FpResult} (hi : r ≠ .invalid) (hz : r ≠ .zeroDivide) (s : State) :
    storeFloat len t (.mem a) r s = .exc 11 s := by
  cases r with
  | invalid => exact absurd rfl hi
  | zeroDivide => exact absurd rfl hz
  | value b n z ix uf ovf =>
    rw [storeFloat, writePlace_outside ha]
    rfl

end

/-- A field that memory cuts off is no operand (30 R123). -/
theorem locate_of_truncated {t : OpType} {k : Access} {m : Mode t} (hk : modeIllegal k m = false)
    (hm : m.isTruncated = true) (sp0 : Word) (s : State) : locate k sp0 m s = .exc 11 s := by
  cases m
  case truncated b => simp only [locate, hk, Bool.false_eq_true, if_false]
  all_goals cases hm

/-! ### Floating-point results that are values (43 R250) -/

theorem FpFormat.round_ne (f : FpFormat) (rc : BitVec 2) (k : Nat) (s : Bool) (num den : Nat) (e : Int) :
    f.round rc k s num den e ≠ .invalid ∧ f.round rc k s num den e ≠ .zeroDivide := ⟨nofun, nofun⟩

theorem FpFormat.ofInt_ne (f : FpFormat) (n : Int) : f.ofInt n ≠ .invalid ∧ f.ofInt n ≠ .zeroDivide := by
  unfold FpFormat.ofInt
  split
  · exact ⟨nofun, nofun⟩
  · exact f.round_ne _ _ _ _ _ _

theorem FpResult.nonNegative_ne_zeroDivide {r : FpResult} (h : r ≠ .zeroDivide) : r.nonNegative ≠ .zeroDivide := by
  cases r with
  | zeroDivide => exact absurd rfl h
  | _ => exact nofun

theorem FpFormat.sqrt_ne_zeroDivide (f : FpFormat) (rc : BitVec 2) (k x : Nat) : f.sqrt rc k x ≠ .zeroDivide := by
  unfold FpFormat.sqrt
  split
  · exact nofun
  · split
    · exact nofun
    · exact FpResult.nonNegative_ne_zeroDivide (f.round_ne _ _ _ _ _ _).2

/-- A conversion between the formats gives a value for whatever is no Nan (42 R223, R224). -/
theorem FpFormat.convert_ne {f : FpFormat} {x : Nat} (h : f.isNan x = false) (g : FpFormat) (rc : BitVec 2) (k : Nat) :
    f.convert g rc k x ≠ .invalid ∧ f.convert g rc k x ≠ .zeroDivide := by
  unfold FpFormat.convert
  rw [h]
  split
  · contradiction
  · split
    · exact ⟨nofun, nofun⟩
    · split
      · exact ⟨nofun, nofun⟩
      · exact g.round_ne _ _ _ _ _ _

/-! ### Destinations outside memory (30 R116 step 4, R119) -/

section
variable {t u : OpType} {src : Mode t} {des : Mode u} {s s1 s2 : State} {v : BitVec t.bits} {a : Word}
  (hv : readField s.sp src s = .ok v s1) (hw : openWritten s.sp des s1 = .ok (.mem a) s2)
  (ha : memoryBytes < a.toNat + u.len)
include hv hw ha

theorem integerWrite_outside (len : Nat) (op : Bool → BitVec t.bits → AluResult u.bits) :
    integerWrite len src des op s = finish s (.exc 11 s2) := by
  rw [integerWrite, hv, Res.ok_bind, hw, Res.ok_bind, storeInteger_outside ha]

theorem integerConvert_outside (len : Nat) (op : Bool → BitVec t.bits → AluResult u.bits) :
    integerConvert len src des op s = finish s (.exc 11 s2) := by
  simp only [integerConvert, hv, hw, writePlace_outside ha, Res.ok_bind, Res.exc_bind]

/-- A conversion of an integer has freed FR (log 45). -/
theorem floatFromInteger_outside (len : Nat) :
    floatFromInteger len src des s = finish s (.exc 11 { s2 with fr := Config.freeFaultBits s2.freeCount }) := by
  obtain ⟨hi, hz⟩ := (fpFormat u).ofInt_ne v.toInt
  rw [floatFromInteger, hv, Res.ok_bind, hw, Res.ok_bind, storeFloat_outside ha len hi hz]

/-- An instruction with one floating-point source has written FR, if its result is a value (43 R252; log 45). -/
theorem floatWrite_outside (len : Nat) {op : BitVec 2 → Nat → Nat → FpResult}
    (hi : op (Ps.rc s.ps) s.freeCount v.toNat ≠ .invalid) (hz : op (Ps.rc s.ps) s.freeCount v.toNat ≠ .zeroDivide) :
    floatWrite len src des op s =
      finish s (.exc 11 { s2 with fr := faultOne (fpFormat t) s.freeCount v.toNat }) := by
  have ht := (readField_touches hv).trans (openWritten_touches hw)
  rw [floatWrite, hv, Res.ok_bind, hw, Res.ok_bind, ht.ps, ht.freeCount, storeFloat_outside ha len hi hz]

end

section
variable {t : OpType} {src des : Mode t} {s s1 s2 : State} {v : BitVec t.bits} {a : Word}
  (hv : readField s.sp src s = .ok v s1) (hw : openWritten s.sp des s1 = .ok (.mem a) s2)
  (ha : memoryBytes < a.toNat + t.len)
include hv hw ha

theorem moveInteger_outside (len : Nat) : moveInteger len src des s = finish s (.exc 11 s2) := by
  rw [moveInteger, hv, Res.ok_bind, hw, Res.ok_bind, writePlace_outside ha]
  rfl

/-- A move of floating-point data has written FR (log 45). -/
theorem moveFloat_outside (len : Nat) : moveFloat len src des s =
    finish s (.exc 11 { s2 with fr := faultOne (fpFormat t) s2.freeCount v.toNat }) := by
  rw [moveFloat, hv, Res.ok_bind, hw, Res.ok_bind, writePlace_outside ha]
  rfl

end

/-- An instruction that writes an integer it has made of an integer, where its destination is outside memory. -/
theorem exec_of_integer_destination_outside {i : Instr} {f g : Field} {s s1 t : State} {v : BitVec f.type.bits}
    {a : Word} (h : i.fields = [f, g]) (hf : f.access = .r) (hg : g.access = .w) (hi : g.type.isFp = false)
    (hv : readField s.sp f.mode s = .ok v s1) (hw : openWritten s.sp g.mode s1 = .ok (.mem a) t)
    (ha : memoryBytes < a.toNat + g.type.len) : exec i s = finish s (.exc 11 t) := by
  unfold exec
  cases i with
  | negb | negh | negw | notb | noth | notw | ffob | ffoh | ffow =>
    cases h
    exact integerWrite_outside hv hw ha _ _
  | cvbw | cvhw | cvwb | cvwh =>
    cases h
    exact integerConvert_outside hv hw ha _ _
  | movb | movh | movw =>
    cases h
    exact moveInteger_outside hv hw ha _
  | stpr src des =>
    cases h
    simp only [execStpr, hv, hw, storeInteger_outside ha, Res.ok_bind]
  | cvbr | cvhr | cvbl | cvhl | cvwl | movr | movl | negr | negl | sqtr | sqtl | cvrl | cvlr =>
    cases h
    cases hi
  | mova => cases h; cases hf
  | _ => cases h <;> cases hg

/-- An instruction that converts an integer to floating-point data, or moves such data, where its destination is
outside memory, has written FR (log 45). -/
theorem exec_of_float_destination_outside {i : Instr} {f g : Field} {s s1 t : State} {v : BitVec f.type.bits}
    {a : Word} (h : i.fields = [f, g]) (hg : g.access = .w) (ht : g.type.isFp = true)
    (hi : f.type.isFp = false ∨ (∃ a b, i = .movr a b) ∨ ∃ a b, i = .movl a b)
    (hv : readField s.sp f.mode s = .ok v s1) (hw : openWritten s.sp g.mode s1 = .ok (.mem a) t)
    (ha : memoryBytes < a.toNat + g.type.len) : ∃ fr, exec i s = finish s (.exc 11 { t with fr := fr }) := by
  unfold exec
  cases i with
  | cvbr | cvhr | cvbl | cvhl | cvwl =>
    cases h
    exact ⟨_, floatFromInteger_outside hv hw ha _⟩
  | movr | movl =>
    cases h
    exact ⟨_, moveFloat_outside hv hw ha _⟩
  | negr | negl | sqtr | sqtl | cvrl | cvlr =>
    cases h
    simp at hi
  | negb | negh | negw | notb | noth | notw | ffob | ffoh | ffow | cvbw | cvhw | cvwb | cvwh | movb | movh | movw
  | stpr | mova =>
    cases h
    cases ht
  | _ => cases h <;> cases hg

/-- MOVA stores the operand address where its destination is (42 R212). -/
theorem exec_mova_outside {src : Mode .address} {des : Mode .word} {s s1 t : State} {v a : Word}
    (hv : addressOf s.sp src s = .ok v s1) (hw : openWritten s.sp des s1 = .ok (.mem a) t)
    (ha : memoryBytes < a.toNat + 4) : exec (.mova src des) s = finish s (.exc 11 t) := by
  simp only [exec, execMova, hv, hw, Res.ok_bind]
  rw [writePlace_outside (t := .word) ha]
  rfl

/-! ### Calls and returns (44 R305 to R307, 45 R335) -/

/-- CALL evaluates its target first, and then its push has moved SP (20 R64). -/
theorem exec_call_outside {src : Mode .address} {s s1 : State} {target : Word}
    (hv : addressOf s.sp src { s with ps := Ps.withRep s.ps 0 } = .ok target s1)
    (h : memoryBytes < (s.sp - 4).toNat + 4) :
    exec (.call src) s = finish s (.exc 11 { s1 with sp := s.sp - 4 }) := by
  have sp : s1.sp = s.sp := (addressOf_touches hv).sp rfl
  rw [← sp] at h ⊢
  simp only [exec, execCall, hv, Res.ok_bind, push_outside h, Res.exc_bind]

theorem exec_ret_outside {s : State} (h : memoryBytes < s.sp.toNat + 4) :
    exec .ret s = finish s (.exc 11 { s with ps := Ps.withRep s.ps 0 }) := by
  simp only [exec, execRet, pop_outside (s := { s with ps := Ps.withRep s.ps 0 }) h, Res.exc_bind]

theorem exec_retp_outside {src : Mode .word} {s s1 : State} {v : Word}
    (hv : readField s.sp src { s with ps := Ps.withRep s.ps 0 } = .ok v s1) (h : memoryBytes < s1.sp.toNat + 4) :
    exec (.retp src) s = finish s (.exc 11 s1) := by
  simp only [exec, execRetp, hv, Res.ok_bind, pop_outside h, Res.exc_bind]

/-- RETI and RETT end with the exception of their pops. -/
theorem exec_returns_of_popReturn_exc {s t : State} {n : Nat} (h : popReturn s = .exc n t) :
    exec .reti s = finish s (.exc n t) ∧ exec .rett s = finish s (.exc n t) := by
  simp only [exec, execReti, execRett, h, Res.exc_bind, and_self]

/-! ### The turn of a processor that executes an instruction (60 R402) -/

/-- Above memory no byte is found. -/
theorem fetchBytes_outside {s : State} (hr : s.romActive = false) (h : memoryBytes ≤ s.pc.toNat) :
    s.fetchBytes = [] := by
  simp [State.fetchBytes, hr, maxInstrBytes, codeBytes, Nat.not_lt.2 h]

/-- An opcode byte above memory is Address Error. -/
theorem runAtPc_outside {s : State} (hr : s.romActive = false) (h : memoryBytes ≤ s.pc.toNat) :
    runAtPc s = finish s (.exc 11 s) := by
  unfold runAtPc
  rw [fetchBytes_outside hr h]
  simp only [decode, hr, Bool.false_eq_true, if_false]

/-- An instruction that memory cuts off is run as one with a field that is cut off (30 R123). -/
theorem runAtPc_of_truncated {s : State} {i : Instr} (hi : decode s.fetchBytes = .error (.truncatedField i))
    (hr : s.romActive = false) : runAtPc s = runFetched i s := by
  simp only [runAtPc, hi, hr, Bool.false_eq_true, if_false]

/-- An instruction whose bytes are not stale runs once its opcode byte is fetched, outside a REPEAT (30 R116). -/
theorem runFetched_of_fetchOpcode {i : Instr} {s u : State} (hs : s.staleCode i.length = false)
    (hu : fetchOpcode s = .ok () u) (hp : Ps.rep s.ps = 0) : runFetched i s = exec i u := by
  have ps : u.ps = s.ps := (fetchAccess_eq_ok hu).1.ps
  simp [runFetched, hs, hu, begin, ps, hp]

/-- The turn of a processor that takes no interrupt and meets no uncorrectable error. -/
theorem processorTurn_of_runs {eccs : List Ecc} {s : State} (hs : s.stuck = false) (hw : s.waiting = false)
    (hn : s.nextInterrupt = none) (he : uncorrectableIn eccs = false) :
    processorTurn eccs s = runAtPc (s.prepared (correctedIn eccs)) := by
  simp [processorTurn, activeTurn, hs, hw, hn, he]

/-- A step with no choices of the environment left is the processor's turn, with clean accesses (log 1). -/
theorem step_of_schedule_nil {s : State} (h : s.schedule = []) : step s = processorTurn [] { s with during := [] } := by
  simp only [step, h]

/-- Such a step runs the instruction at pc in a state of its own (log 2, 3). -/
theorem step_of_runs {s : State} (h : s.schedule = []) (hs : s.stuck = false) (hw : s.waiting = false)
    (hn : s.nextInterrupt = none) : step s = runAtPc { s with
      during := [], inhibit := false, traceDue := true, freeCount := s.freeCount + 1 } := by
  rw [step_of_schedule_nil h, processorTurn_of_runs (s := { s with during := [] }) hs hw hn rfl]
  simp [State.prepared, correctedIn]

/-- Settles O60: each part answers `.exc 11`, and the instruction ends with it. -/
theorem addressErrorsSaveTheInstruction : Obligations.AddressErrorsSaveTheInstruction := by
  refine ⟨?_, ?_, ?_, ?_, ?_, ?_, ?_, ?_, ?_, ?_, ?_, ?_, ?_⟩
  · intro t k m s s1 sp0 r w a
    refine ⟨fun hk hm => locate_of_truncated hk hm sp0 s, fun hk => ?_, fun ha => ?_⟩
    · have legal : (k == Access.reg) = false := by simpa using hk
      refine ⟨?_, ?_, ?_, ?_, ?_⟩
      all_goals
        intro h
        simp only [locate, modeIllegal, legal, Bool.false_eq_true, if_false, readMem_outside h, Res.exc_bind]
    · exact ⟨fun h => ⟨readField_outside ha h, readSecond_outside ha h⟩, openModified_outside ha,
        fun v => writePlace_outside ha v s⟩
  · exact fun i f fs s t h hf hi he => exec_of_readField_exc h hf hi he
  · exact fun src s t h => exec_retp_of_exc h
  · intro i f g s s1 t v h hf hv
    refine ⟨fun hg he => ?_, fun hg he => ?_, fun hg he => ?_, fun hg he => ?_, fun hg hi a hw ha => ?_⟩
    · exact exec_of_evaluateField_exc h hf hv (by simp only [evaluateField, hg, he, Res.exc_bind])
    · exact exec_of_evaluateField_exc h hf hv (by simp only [evaluateField, hg, he, Res.exc_bind])
    · exact exec_of_evaluateField_exc h hf hv (by simp only [evaluateField, hg, he, Res.exc_bind])
    · exact exec_of_evaluateField_exc h hf hv (by simp only [evaluateField, hg, he, Res.exc_bind])
    · cases hp : g.type.isFp with
      | false =>
        have fr := ((readField_touches hv).trans (openWritten_touches hw)).fr
        exact ⟨t.fr, exec_of_integer_destination_outside h hf hg hp hv hw ha, fun _ => fr⟩
      | true =>
        obtain ⟨fr, he⟩ := exec_of_float_destination_outside h hg hp hi hv hw ha
        exact ⟨fr, he, nofun⟩
  · refine ⟨?_, ?_, ?_, ?_, ?_, ?_⟩
    all_goals
      intro src des s s1 s2 v a hv hw ha valid
      unfold exec
    · exact floatWrite_outside hv hw ha _ (by exact nofun) (by exact nofun)
    · exact floatWrite_outside hv hw ha _ (by exact nofun) (by exact nofun)
    · exact floatWrite_outside hv hw ha _ valid ((fpFormat .real).sqrt_ne_zeroDivide _ _ _)
    · exact floatWrite_outside hv hw ha _ valid ((fpFormat .long).sqrt_ne_zeroDivide _ _ _)
    · exact floatWrite_outside hv hw ha _ (FpFormat.convert_ne valid _ _ _).1 (FpFormat.convert_ne valid _ _ _).2
    · exact floatWrite_outside hv hw ha _ (FpFormat.convert_ne valid _ _ _).1 (FpFormat.convert_ne valid _ _ _).2
  · exact fun src des s s1 t v => ⟨exec_mova_of_exc des, fun hv => ⟨exec_mova_of_openWritten_exc hv,
      fun a hw ha => exec_mova_outside hv hw ha⟩⟩
  · exact fun src s t h mk hm => exec_transfer_of_exc hm h
  · exact fun src s s1 target hv h => exec_call_outside hv h
  · intro s h
    exact ⟨exec_ret_outside h, exec_returns_of_popReturn_exc (popReturn_outside h)⟩
  · exact fun s s1 w hr h => exec_returns_of_popReturn_exc (popReturn_second_outside hr h)
  · exact fun src s s1 v hv h => exec_retp_outside hv h
  · intro s hs hw hn hsch hr t
    have run : step s = runAtPc t := step_of_runs hsch hs hw hn
    refine ⟨fun h => run.trans (runAtPc_outside (s := t) hr h), fun i hi hc hp => ?_⟩
    exact run.trans ((runAtPc_of_truncated (s := t) hi hr).trans
      (runFetched_of_fetchOpcode hc (fetchAccess_of_quiet (s := t) _ _ rfl) hp))
  · exact fun s t n h => finish_exc h

end Sys2Proof.Machine
end

section
/-! SUPPORT. Bytes of words and of runs of memory (O9, O53, O59): 20 R62. -/

namespace Sys2Proof.Machine

/-! ### Bytes of a value -/

/-- Byte j of a value is the one that a little-endian store puts j bytes on (20 R62). -/
theorem ofNat_div_eq_extractLsb' {w : Nat} (v : BitVec w) (j : Nat) :
    BitVec.ofNat 8 (v.toNat / 256 ^ j) = v.extractLsb' (8 * j) 8 := by
  apply BitVec.eq_of_toNat_eq
  rw [BitVec.toNat_ofNat, BitVec.extractLsb'_toNat, Nat.shiftRight_eq_div_pow, Nat.pow_mul]

/-- A byte below a value. -/
theorem toNat_append_byte {w : Nat} (x : BitVec w) (y : Byte) : (x ++ y).toNat = 256 * x.toNat + y.toNat := by
  rw [BitVec.toNat_append, ← Nat.shiftLeft_add_eq_or_of_lt y.isLt, Nat.shiftLeft_eq]
  omega

/-! ### Bytes of a run (20 R62) -/

/-- A run read low-order byte first from the bytes that a function gives. -/
def littleEndian (f : Nat → Byte) : Nat → Nat → Nat
  | _, 0 => 0
  | x, n + 1 => (f x).toNat + 256 * littleEndian f (x + 1) n

theorem Memory.read_eq (m : Memory) (a n : Nat) : m.read a n = littleEndian m.get a n := by
  induction n generalizing a with
  | zero => rfl
  | succ n ih => rw [Memory.read, littleEndian, ih]

theorem State.bytesSeen_eq (s : State) (fp : Bool) (a n : Nat) (got : List (Nat × Byte)) (x k : Nat) :
    s.bytesSeen fp a n got x k = littleEndian (fun y => (got.lookup y).getD (s.byteSeen fp a n y)) x k := by
  induction k generalizing x with
  | zero => rfl
  | succ k ih => rw [State.bytesSeen, littleEndian, ih]

theorem littleEndian_congr {f g : Nat → Byte} {a n : Nat} (h : ∀ x, a ≤ x → x < a + n → f x = g x) :
    littleEndian f a n = littleEndian g a n := by
  induction n generalizing a with
  | zero => rfl
  | succ n ih =>
    rw [littleEndian, littleEndian, h a (by omega) (by omega), ih fun x h1 h2 => h x (by omega) (by omega)]

theorem littleEndian_lt (f : Nat → Byte) (a n : Nat) : littleEndian f a n < 256 ^ n := by
  induction n generalizing a with
  | zero => simp [littleEndian]
  | succ n ih =>
    have low := (f a).isLt
    have high := ih (a + 1)
    rw [littleEndian, Nat.pow_succ]
    omega

/-- The bytes of a run are those it was read from. -/
theorem ofNat_littleEndian_div (f : Nat → Byte) (a : Nat) {n j : Nat} (h : j < n) :
    BitVec.ofNat 8 (littleEndian f a n / 256 ^ j) = f (a + j) := by
  induction j generalizing a n with
  | zero =>
    obtain ⟨n, rfl⟩ : ∃ k, n = k + 1 := ⟨n - 1, by omega⟩
    apply BitVec.eq_of_toNat_eq
    have low := (f a).isLt
    rw [Nat.add_zero a, littleEndian, BitVec.toNat_ofNat, Nat.pow_zero, Nat.div_one]
    omega
  | succ j ih =>
    obtain ⟨n, rfl⟩ : ∃ k, n = k + 1 := ⟨n - 1, by omega⟩
    have low := (f a).isLt
    have high : littleEndian f a (n + 1) / 256 = littleEndian f (a + 1) n := by
      rw [littleEndian]
      omega
    rw [Nat.pow_succ', ← Nat.div_div_eq_div_mul, high, ih (a + 1) (by omega), Nat.add_assoc, Nat.add_comm 1]

/-- A run of the bytes of a value is its low-order part. -/
theorem littleEndian_bytes (a n v : Nat) :
    littleEndian (fun x => BitVec.ofNat 8 (v / 256 ^ (x - a))) a n = v % 256 ^ n := by
  induction n generalizing a v with
  | zero => simp [littleEndian, Nat.mod_one]
  | succ n ih =>
    have rest : littleEndian (fun x => BitVec.ofNat 8 (v / 256 ^ (x - a))) (a + 1) n = v / 256 % 256 ^ n := by
      rw [← ih (a + 1) (v / 256)]
      refine littleEndian_congr fun x h1 _ => ?_
      rw [Nat.div_div_eq_div_mul, ← Nat.pow_succ', show (x - (a + 1)).succ = x - a by omega]
    rw [littleEndian, rest, Nat.sub_self, Nat.pow_zero, Nat.div_one, BitVec.toNat_ofNat, Nat.pow_succ' (m := 256)]
    exact Nat.mod_mul.symm

/-- What memory holds after a write. -/
theorem Memory.get_write_eq (m : Memory) (a n v x : Nat) : (m.write a n v).get x =
    if a ≤ x ∧ x < a + n then BitVec.ofNat 8 (v / 256 ^ (x - a)) else m.get x := by
  rw [← Memory.writeRest_nil, Memory.get_writeRest]
  simp

end Sys2Proof.Machine
end

section
/-! SUPPORT. The agents beside the processor (O53): port engines, links, arrivals, the timer, the host: 46 R371 to
R379, 60 R441, 20 R73, 70 R485. -/

namespace Sys2Proof.Machine

/-! ### Steps of other agents (46 R370; log 1) -/

theorem moveTurn_of_ok {s t : State} {m : Move} (hs : s.stuck = false) (hm : agentMove m s = .ok () t) :
    moveTurn m s = .next t := by
  simp only [moveTurn, hs, hm, Bool.false_eq_true, if_false]

theorem moveTurn_of_refused {s : State} {m : Move} {r : Refusal} (hs : s.stuck = false)
    (hm : agentMove m s = .refused r) : moveTurn m s = .refused r := by
  simp only [moveTurn, hs, hm, Bool.false_eq_true, if_false]

/-- A step that the schedule gives to another agent is its move. -/
theorem step_of_schedule_move {s : State} {m : Move} {rest : List Event} (h : s.schedule = .move m :: rest) :
    step s = moveTurn m { s with schedule := rest } := by
  simp only [step, h]

/-! ### Halfwords of memory (20 R62, R78) -/

/-- Bits 16..1 of an address register give the address of its halfword (20 R78). -/
theorem dmaAddress_eq (a : Word) : dmaAddress a = 2 * (a.extractLsb' 1 16).toNat := by
  rw [BitVec.extractLsb'_toNat, Nat.shiftRight_eq_div_pow, dmaAddress, memoryBytes]
  omega

/-- The halfword at an address inside memory is the one that the address lies in. -/
theorem dmaAddress_of_lt {a : Word} (h : a.toNat < memoryBytes) : dmaAddress a = a.toNat / 2 * 2 := by
  rw [dmaAddress, Nat.mod_eq_of_lt h]

/-- The two bytes of a halfword, the low-order one first (20 R62). -/
theorem State.halfAt_eq (s : State) (a : Word) :
    s.halfAt a = s.mem.get (dmaAddress a + 1) ++ s.mem.get (dmaAddress a) := by
  apply BitVec.eq_of_toNat_eq
  have low := (s.mem.get (dmaAddress a)).isLt
  have high := (s.mem.get (dmaAddress a + 1)).isLt
  rw [State.halfAt, toNat_append_byte, BitVec.toNat_ofNat, Memory.read, Memory.read, Memory.read]
  omega

/-- What memory holds after a halfword is stored (20 R62). -/
theorem Memory.get_write_half (m : Memory) (a x : Nat) (h : Half) : (m.write a 2 h.toNat).get x =
    if x = a then h.extractLsb' 0 8 else if x = a + 1 then h.extractLsb' 8 8 else m.get x := by
  rw [Memory.get_write_eq, ofNat_div_eq_extractLsb']
  by_cases h0 : x = a
  · simp [h0]
  · by_cases h1 : x = a + 1
    · simp [h1]
    · rw [if_neg (by omega), if_neg h0, if_neg h1]

/-! ### Port status bits (10 R26) -/

theorem portBit_lt (p : PortIx) : portBit p < 32 := by
  unfold portBit
  split <;> omega

/-- Writing the bit of a port leaves the others. -/
theorem getLsbD_setBit_portBit (x : Word) (p : PortIx) (b : Bool) :
    (setBit x (portBit p) b).getLsbD (portBit p) = b ∧
      ∀ j, j ≠ portBit p → (setBit x (portBit p) b).getLsbD j = x.getLsbD j := by
  constructor
  · rw [getLsbD_setBit, if_pos ⟨rfl, portBit_lt p⟩]
  · intro j hj
    rw [getLsbD_setBit, if_neg fun e => hj e.1]

/-! ### Output ports (46 R371, R373) -/

/-- A port takes part in the broadcast in progress only if its mask selects it (46 R366). -/
theorem State.broadcasting_eq_false {s : State} {p : PortIx}
    (h : ∀ m, s.broadcast = some m → m.getLsbD (portBit p) = false) : s.broadcasting p = false := by
  unfold State.broadcasting
  split
  · rename_i m hm
    exact h m hm
  · rfl

/-- A port with a transfer in progress and a free link sends (46 R371). -/
theorem stepSend_of_enabled {s : State} {p : PortIx} (hc : (s.outPorts.get p).count ≠ 0)
    (hl : (s.outPorts.get p).link = none) (hb : s.broadcasting p = false) :
    stepSend p s = s.setOutPort p ((s.outPorts.get p).sent (s.halfAt (s.outPorts.get p).addr)) := by
  have can : (s.outPorts.get p).canSend = true := by simpa [OutPort.canSend, hl] using hc
  simp [stepSend, can, hb]

/-! ### Arrivals (46 R374, R379; 70 R485) -/

/-- An arrival at port p keeps to the boot protocol: no other port has been sent to, is selected or is in use; the
latch is not overrun before the image is stored; and the length is even and at least 1018 (70 R485, 93 U19). -/
def State.bootAllows (s : State) (p : PortIx) (h : Half) : Prop :=
  (∀ r, s.bootPort = some r → r = p) ∧
  (romAfterSelect ≤ s.pc.toNat → s.regs.get 1 = BitVec.ofNat 32 (portBit p)) ∧
  (∀ r, r ≠ p → (s.inPorts.get r).latch = none ∧ (s.inPorts.get r).count = 0) ∧
  ((s.inPorts.get p).latch ≠ none → romAfterImageCount ≤ s.pc.toNat) ∧
  ((s.inPorts.get p).latch = none → s.pc.toNat ≤ romLengthCount → 1018 ≤ h.toNat ∧ h.getLsbD 0 = false)

theorem breaksBoot_eq_false_iff (p : PortIx) (h : Half) (s : State) : breaksBoot p h s = false ↔
    (s.romActive = true ∧ s.pi.getLsbD 31 = false → s.bootAllows p h) := by
  have loader : (s.bootPort.any (· != p)) = false ↔ ∀ r, s.bootPort = some r → r = p := by
    cases s.bootPort <;> simp
  have selected : (decide (romAfterSelect ≤ s.pc.toNat) && s.regs.get 1 != BitVec.ofNat 32 (portBit p)) = false ↔
      (romAfterSelect ≤ s.pc.toNat → s.regs.get 1 = BitVec.ofNat 32 (portBit p)) := by
    simp
  have others : ((List.finRange 11).any fun r =>
        r != p && ((s.inPorts.get r).latch.isSome || (s.inPorts.get r).count != 0)) = false ↔
      ∀ r, r ≠ p → (s.inPorts.get r).latch = none ∧ (s.inPorts.get r).count = 0 := by
    simp
  have image : ((s.inPorts.get p).latch.isSome && decide (s.pc.toNat < romAfterImageCount)) = false ↔
      ((s.inPorts.get p).latch ≠ none → romAfterImageCount ≤ s.pc.toNat) := by
    simp [Option.isSome_iff_ne_none]
  have length : ((s.inPorts.get p).latch.isNone && decide (s.pc.toNat ≤ romLengthCount)
        && (decide (h.toNat < 1018) || h.getLsbD 0)) = false ↔
      ((s.inPorts.get p).latch = none → s.pc.toNat ≤ romLengthCount → 1018 ≤ h.toNat ∧ h.getLsbD 0 = false) := by
    simp
  unfold breaksBoot State.bootAllows
  cases s.romActive
  · simp
  · cases s.pi.getLsbD 31
    · simp only [Bool.not_false, Bool.true_and, Bool.or_eq_false_iff, loader, selected, others, image, length,
        and_assoc, true_and, true_imp_iff]
    · simp

/-- What an arrival does to the error bits of its port: nothing while a transfer is in progress, else they show the
notes (46 R374; the decision D32). -/
theorem stepArrive_errors (p : PortIx) (h : Half) (bad : Bool) (s : State) :
    let q := s.inPorts.get p
    let t := stepArrive p h bad s
    (q.count ≠ 0 → t.pe = s.pe ∧ t.io = s.io) ∧
      (q.count = 0 → t = (s.setInPort p { q with
          latch := some h
          parityNoted := q.parityNoted || bad
          overrunNoted := q.overrunNoted || q.latch.isSome }).showErrors p
        (s.pe.getLsbD (portBit p) || (q.parityNoted || bad))
        (s.io.getLsbD (portBit p) || (q.overrunNoted || q.latch.isSome))) := by
  refine ⟨fun hc => ?_, fun hc => ?_⟩
  · simp only [stepArrive, if_neg hc]
    exact ⟨rfl, rfl⟩
  · simp only [stepArrive, if_pos hc]
    rfl

/-- What an arrival leaves as it was, and what it does to its port (46 R374). -/
theorem stepArrive_kept (p : PortIx) (h : Half) (bad : Bool) (s : State) :
    let q := s.inPorts.get p
    let t := stepArrive p h bad s
    t.inPorts = s.inPorts.set p { q with
        latch := some h
        parityNoted := q.parityNoted || bad
        overrunNoted := q.overrunNoted || q.latch.isSome } ∧
      t.mem = s.mem ∧ t.regs = s.regs ∧ t.pc = s.pc ∧ t.ps = s.ps ∧ t.outPorts = s.outPorts := by
  unfold stepArrive
  dsimp only
  split <;> exact ⟨rfl, rfl, rfl, rfl, rfl, rfl⟩

/-! ### Stores of input ports (46 R374, R376) -/

/-- A port with a transfer in progress and a full latch stores it (46 R374). -/
theorem stepStore_of_enabled {s : State} {p : PortIx} {h : Half} (hc : (s.inPorts.get p).count ≠ 0)
    (hl : (s.inPorts.get p).latch = some h) : stepStore p s =
      let q := s.inPorts.get p
      let t := (s.store .agent (dmaAddress q.addr) 2 h.toNat).setInPort p
        { q with addr := q.addr + 2, count := q.count - 2, latch := none }
      if q.count - 2 = 0 then t.showErrors p q.parityNoted q.overrunNoted else t := by
  simp only [stepStore, hl, if_neg hc]

/-- What such a store leaves as it was, and what it does to memory and its port. -/
theorem stepStore_kept {s : State} {p : PortIx} {h : Half} (hc : (s.inPorts.get p).count ≠ 0)
    (hl : (s.inPorts.get p).latch = some h) :
    let q := s.inPorts.get p
    let t := stepStore p s
    t.inPorts = s.inPorts.set p { q with addr := q.addr + 2, count := q.count - 2, latch := none } ∧
      t.mem = s.mem.write (dmaAddress q.addr) 2 h.toNat ∧
      t.regs = s.regs ∧ t.pc = s.pc ∧ t.ps = s.ps ∧ t.outPorts = s.outPorts := by
  rw [stepStore_of_enabled hc hl]
  dsimp only
  split <;> exact ⟨rfl, rfl, rfl, rfl, rfl, rfl⟩

/-- The notes show in PE and IO when the transfer is complete (46 R376). -/
theorem stepStore_errors {s : State} {p : PortIx} {h : Half} (hc : (s.inPorts.get p).count ≠ 0)
    (hl : (s.inPorts.get p).latch = some h) :
    let q := s.inPorts.get p
    let t := stepStore p s
    (q.count ≠ 2 → t.pe = s.pe ∧ t.io = s.io) ∧
      (q.count = 2 → t.pe = setBit s.pe (portBit p) q.parityNoted ∧ t.io = setBit s.io (portBit p) q.overrunNoted) := by
  have complete : (s.inPorts.get p).count - 2 = 0 ↔ (s.inPorts.get p).count = 2 := by
    constructor <;> intro e <;> bv_omega
  rw [stepStore_of_enabled hc hl]
  refine ⟨fun h2 => ?_, fun h2 => ?_⟩
  · simp only [complete, if_neg h2]
    exact ⟨rfl, rfl⟩
  · simp only [complete, if_pos h2]
    exact ⟨rfl, rfl⟩

/-! ### The timer and the host (60 R441, 20 R73) -/

/-- TR ticks down to 0 and stays there (60 R441). -/
theorem tick_eq (tr : Word) : (if tr = 0 then 0 else tr - 1) = BitVec.ofNat 32 (tr.toNat - 1) := by
  split
  · rename_i h
    simp [h]
  · rename_i h
    have pos : tr.toNat ≠ 0 := fun e => h (BitVec.eq_of_toNat_eq e)
    apply BitVec.eq_of_toNat_eq
    bv_omega

/-- Settles O53: each move is the function of its agent, whose effect the lemmas above state. -/
theorem agentsMoveHalfwordsAndTime : Obligations.AgentsMoveHalfwordsAndTime := by
  refine ⟨?_, ?_, ?_, ?_⟩
  · intro s rest p bit place hs
    have address (a : Word) : dmaAddress a = place a := dmaAddress_eq a
    refine ⟨?_, ?_, ?_⟩
    · intro q hq
      subst hq
      refine ⟨fun hc hl hb hsch => ?_, fun hsch => ?_⟩
      · have sent := stepSend_of_enabled (s := { s with schedule := rest }) hc hl (State.broadcasting_eq_false hb)
        rw [State.halfAt_eq, address] at sent
        exact (step_of_schedule_move hsch).trans (moveTurn_of_ok hs (congrArg (Res.ok ()) sent))
      · exact (step_of_schedule_move hsch).trans (moveTurn_of_ok hs rfl)
    · intro q h bad hq hsch booting allowed
      subst hq
      have protocol := breaksBoot_eq_false_iff p h { s with schedule := rest }
      refine ⟨fun hb ha => ?_, fun ha => ?_⟩
      · rw [step_of_schedule_move hsch]
        refine moveTurn_of_refused hs (if_pos ?_)
        by_contra hn
        exact ha (protocol.1 (by simpa using hn) hb)
      · obtain ⟨hin, hmem, hregs, hpc, hps, hout⟩ := stepArrive_kept p h bad { s with schedule := rest }
        obtain ⟨hquiet, hshown⟩ := stepArrive_errors p h bad { s with schedule := rest }
        refine ⟨arriveFrom p h bad { s with schedule := rest }, ?_, hin, hmem, hregs, hpc, hps, hout, rfl, hquiet,
          fun hc => ?_⟩
        · rw [step_of_schedule_move hsch]
          refine moveTurn_of_ok hs (if_neg ?_)
          rw [protocol.2 ha]
          exact Bool.false_ne_true
        · have pe := getLsbD_setBit_portBit s.pe p
          have io := getLsbD_setBit_portBit s.io p
          rw [arriveFrom, hshown hc]
          exact ⟨(pe _).1, (io _).1, fun j hj => ⟨(pe _).2 j hj, (io _).2 j hj⟩⟩
    · intro q h hq hc hl hsch
      subst hq
      obtain ⟨hin, hmem, hregs, hpc, hps, hout⟩ := stepStore_kept (s := { s with schedule := rest }) hc hl
      obtain ⟨hquiet, hshown⟩ := stepStore_errors (s := { s with schedule := rest }) hc hl
      refine ⟨stepStore p { s with schedule := rest }, ?_, hin, fun x => ?_, hregs, hpc, hps, hout, hquiet,
        fun h2 => ?_⟩
      · exact (step_of_schedule_move hsch).trans (moveTurn_of_ok hs rfl)
      · rw [hmem, Memory.get_write_half, address]
      · obtain ⟨hpe, hio⟩ := hshown h2
        have pe := getLsbD_setBit_portBit s.pe p
        have io := getLsbD_setBit_portBit s.io p
        rw [hpe, hio]
        exact ⟨(pe _).1, (io _).1, fun j hj => ⟨(pe _).2 j hj, (io _).2 j hj⟩⟩
  · intro s rest hs hsch
    rw [← tick_eq]
    exact (step_of_schedule_move hsch).trans (moveTurn_of_ok hs rfl)
  · intro s rest a h hs hsch window early
    have outside : (!s.pi.getLsbD 31 || decide (memoryBytes ≤ a.toNat)) = true ↔
        ¬(s.pi.getLsbD 31 = true ∧ a.toNat < memoryBytes) := by
      simp [Decidable.imp_iff_not_or]
    have flag : (s.romActive && decide (s.pc.toNat < romAfterClear) && decide (a.toNat < 2)) = true ↔
        s.romActive = true ∧ s.pc.toNat < romAfterClear ∧ a.toNat < 2 := by
      simp [and_assoc]
    have ends := step_of_schedule_move hsch
    refine ⟨fun hw => ?_, fun hw he => ?_, fun hw he => ?_⟩
    · exact ends.trans (moveTurn_of_refused hs (if_pos (outside.2 hw)))
    · exact ends.trans (moveTurn_of_refused hs ((if_neg fun e => outside.1 e hw).trans (if_pos (flag.2 he))))
    · refine ⟨_, ends.trans (moveTurn_of_ok hs ((if_neg fun e => outside.1 e hw).trans
        (if_neg fun e => he (flag.1 e)))), fun x => ?_, rfl, rfl, rfl, rfl, rfl⟩
      rw [State.store_mem, Memory.get_write_half, dmaAddress_of_lt hw.2]
  · intro s rest hsch
    simp only [step, hsch]
    rfl

end Sys2Proof.Machine
end

section
/-! SUPPORT. Accesses to memory and fetches, with the moves of other agents within them (O9): 20 R62, R64, R65, R68,
R71; 30 R123; 46 R370. -/

namespace Sys2Proof.Machine

/-! ### Floating-point data that is not in pieces (20 R65, 70 R481; log 16) -/

/-- A byte is not stale where no recorded store makes it a piece of a datum. -/
theorem State.stale_eq_false {s : State} {fp : Bool} {a n : Nat}
    (h : ∀ r ∈ s.written, (r.readInPieces fp a n || (fp && r.storedInPieces s.written a n)) = false) (x : Nat) :
    s.stale fp a n x = false := by
  unfold State.stale
  split
  · rename_i r hr
    exact h r (List.mem_of_find?_eq_some hr)
  · rfl

/-- Aligned floating-point data is never in pieces, whatever reads it. -/
theorem State.Plain.not_stale {s : State} (h : s.Plain) {fp : Bool} {a n : Nat} (ha : fp = false ∨ a % n = 0) (x : Nat) :
    s.stale fp a n x = false := by
  refine State.stale_eq_false (fun r hr => ?_) x
  rcases ha with hf | hn
  · simp [Stored.readInPieces, h r hr, hf]
  · simp [Stored.readInPieces, Stored.storedInPieces, h r hr, hn]

/-- Floating-point data of the operand's own width is read whole, at any address (20 R65). -/
theorem State.not_stale_of_widths {s : State} {n : Nat}
    (h : ∀ r ∈ s.written, r.kind = .agent ∨ (r.kind = .float ∧ r.len = n)) (a x : Nat) : s.stale true a n x = false := by
  refine State.stale_eq_false (fun r hr => ?_) x
  rcases h r hr with hk | ⟨hk, hn⟩
  · simp [Stored.readInPieces, Stored.storedInPieces, Stored.misaligned, hk]
  · simp [Stored.readInPieces, Stored.storedInPieces, hk, hn]

theorem State.load_eq (s : State) (fp : Bool) (a n : Nat) : s.load fp a n = littleEndian (s.byteSeen fp a n) a n :=
  s.bytesSeen_eq fp a n [] a n

theorem State.byteSeen_of_not_stale {s : State} {fp : Bool} {a n x : Nat} (h : s.stale fp a n x = false) :
    s.byteSeen fp a n x = s.mem.get x := by
  rw [State.byteSeen, h]
  rfl

/-- The bytes just stored are not in pieces for a read of just them. -/
theorem State.stale_store (s : State) {k : Storer} (hk : k ≠ .agent) (fp : Bool) (a n v : Nat) {x : Nat} (h1 : a ≤ x)
    (h2 : x < a + n) : (s.store k a n v).stale fp a n x = false := by
  have newest : storesAfter k a n s.written =
      { addr := a, len := n, kind := k } :: s.written.filter (fun h => !h.within a n) := by
    simp [storesAfter, hk]
  simp [State.stale, newest, Stored.covers, Stored.readInPieces, Stored.storedInPieces, Stored.within, Stored.takesIn,
    h1, h2]

/-- What is stored is read back. -/
theorem State.load_store (s : State) {k : Storer} (hk : k ≠ .agent) (fp : Bool) (a n v : Nat) :
    (s.store k a n v).load fp a n = v % 256 ^ n := by
  rw [State.load_eq, ← littleEndian_bytes a n v]
  refine littleEndian_congr fun x h1 h2 => ?_
  rw [State.byteSeen_of_not_stale (s.stale_store hk fp a n v h1 h2), State.store_mem, Memory.get_write_eq,
    if_pos ⟨h1, h2⟩]

/-- The four bytes of a word of memory. -/
theorem Memory.ofNat_read_word (m : Memory) (a : Nat) :
    BitVec.ofNat 32 (m.read a 4) = m.get (a + 3) ++ m.get (a + 2) ++ m.get (a + 1) ++ m.get a := by
  have range : m.read a 4 < 2 ^ 32 := by
    rw [Memory.read_eq]
    exact littleEndian_lt _ a 4
  apply BitVec.eq_of_toNat_eq
  rw [toNat_append_byte, toNat_append_byte, toNat_append_byte, BitVec.toNat_ofNat, Nat.mod_eq_of_lt range]
  simp only [Memory.read, Nat.add_assoc, Nat.reduceAdd]
  omega

/-! ### Moves within an access (20 R68, R71; log 2) -/

/-- No move of another agent leaves a misaligned Real or Longreal. -/
theorem agentMove_plain {m : Move} {s t : State} (h : agentMove m s = .ok () t) (hp : s.Plain) : t.Plain := by
  cases m with
  | tick => cases h; exact hp
  | arrive p x bad =>
    simp only [agentMove] at h
    split at h <;> cases h
    unfold arriveFrom stepArrive
    dsimp only
    split <;> exact hp
  | storeLatch p =>
    cases h
    unfold stepStore
    dsimp only
    split
    · exact hp
    · rename_i x _
      have stored (a : Nat) : (s.store .agent a 2 x.toNat).Plain := hp.store (by decide) a 2 x.toNat
      split
      · exact hp
      · split <;> exact stored _
  | send p =>
    cases h
    unfold stepSend
    dsimp only
    split <;> exact hp
  | broadcastSend =>
    cases h
    unfold stepBroadcast
    split
    · exact hp
    · split <;> exact hp
  | linkTaken p => cases h; exact hp
  | hostWrite a x =>
    simp only [agentMove, stepHost] at h
    split at h
    · cases h
    · split at h
      · cases h
      · cases h
        exact hp.store (by decide) _ _ _

theorem State.Moved.plain {vs : List Visit} {s t : State} (h : State.Moved vs s t) (hp : s.Plain) : t.Plain := by
  induction vs generalizing s with
  | nil => cases h; exact hp
  | cons v vs ih =>
    cases v with
    | move m =>
      obtain ⟨u, hu, h⟩ := h
      exact ih h (agentMove_plain hu hp)
    | byte k => exact ih h hp

theorem State.Moved.sameCore {vs : List Visit} {s t : State} (h : State.Moved vs s t) : State.SameCore s t := by
  induction vs generalizing s with
  | nil => cases h; exact .refl _
  | cons v vs ih =>
    cases v with
    | move m =>
      obtain ⟨u, hu, h⟩ := h
      exact (agentMove_eq_ok hu).1.trans (ih h)
    | byte k => exact ih h

/-- Bytes, and Halfwords and Words at their own alignment, are accessed whole (20 R68). -/
theorem atomicAccess_iff (a n : Nat) :
    atomicAccess a n = true ↔ n = 1 ∨ (n = 2 ∧ a % 2 = 0) ∨ (n = 4 ∧ a % 4 = 0) := by
  simp only [atomicAccess, Bool.or_eq_true, Bool.and_eq_true, beq_iff_eq]
  constructor
  · rintro (h | ⟨rfl | rfl, h⟩)
    · exact .inl h
    · exact .inr (.inl ⟨rfl, h⟩)
    · exact .inr (.inr ⟨rfl, h⟩)
  · rintro (h | ⟨rfl, h⟩ | ⟨rfl, h⟩)
    · exact .inl h
    · exact .inr ⟨.inl rfl, h⟩
    · exact .inr ⟨.inr rfl, h⟩

/-- An access takes its visits as moves alone: an atomic one, or one that no visit is to a byte of (20 R68). -/
def TakesMoves (a n : Nat) (vs : List Visit) : Prop := atomicAccess a n = true ∨ ∀ k, Visit.byte k ∉ vs

theorem TakesMoves.nil (a n : Nat) : TakesMoves a n [] := .inr fun _ => List.not_mem_nil

/-- What is left of the visits: the same moves, and no byte. -/
theorem TakesMoves.moves {a n : Nat} {vs : List Visit} (h : TakesMoves a n vs) :
    (∀ k, Visit.byte k ∉ visitsOf a n vs) ∧
      ∀ {s t : State}, State.Moved vs s t → State.Moved (visitsOf a n vs) s t := by
  unfold visitsOf
  split
  · refine ⟨fun k hk => by simp at hk, fun {s t} hm => ?_⟩
    induction vs generalizing s with
    | nil => exact hm
    | cons v vs ih =>
      cases v with
      | move m =>
        obtain ⟨u, hu, hm⟩ := hm
        exact ⟨u, hu, ih (h.imp_right fun hb k hk => hb k (List.mem_cons_of_mem _ hk)) hm⟩
      | byte k => exact ih (h.imp_right fun hb k hk => hb k (List.mem_cons_of_mem _ hk)) hm
  · rename_i ha
    exact ⟨h.resolve_left ha, id⟩

section Moves

variable {vs : List Visit} {s t : State}

/-- Visits without bytes add nothing to those a read has. -/
theorem readVisits_of_moved (hv : ∀ k, Visit.byte k ∉ vs) (h : State.Moved vs s t) (fp : Bool) (a n : Nat)
    (got : List (Nat × Byte)) : readVisits fp a n vs got s = .ok got t := by
  induction vs generalizing s with
  | nil => cases h; rfl
  | cons v vs ih =>
    cases v with
    | move m =>
      obtain ⟨u, hu, h⟩ := h
      rw [readVisits, hu, Res.ok_bind]
      exact ih (fun k hk => hv k (List.mem_cons_of_mem _ hk)) h
    | byte k => exact absurd List.mem_cons_self (hv k)

/-- Nor to those a write has stored. -/
theorem writeVisits_of_moved (hv : ∀ k, Visit.byte k ∉ vs) (h : State.Moved vs s t) (a n v : Nat) (done : List Nat) :
    writeVisits a n v vs done s = .ok done t := by
  induction vs generalizing s with
  | nil => cases h; rfl
  | cons w vs ih =>
    cases w with
    | move m =>
      obtain ⟨u, hu, h⟩ := h
      rw [writeVisits, hu, Res.ok_bind]
      exact ih (fun k hk => hv k (List.mem_cons_of_mem _ hk)) h
    | byte k => exact absurd List.mem_cons_self (hv k)

/-- A fetch looks for stored bytes after such visits. -/
theorem fetchVisits_of_moved (hv : ∀ k, Visit.byte k ∉ vs) (h : State.Moved vs s t) (a n : Nat) :
    fetchVisits a n vs [] s =
      if (List.range n).any (fun k => t.storedSince (a + k) 1) then .refused .staleInstructionBytes else .ok () t := by
  induction vs generalizing s with
  | nil =>
    cases h
    simp only [fetchVisits, List.contains_nil, Bool.not_false, Bool.true_and]
  | cons w vs ih =>
    cases w with
    | move m =>
      obtain ⟨u, hu, h⟩ := h
      rw [fetchVisits, hu, Res.ok_bind]
      exact ih (fun k hk => hv k (List.mem_cons_of_mem _ hk)) h
    | byte k => exact absurd List.mem_cons_self (hv k)

/-- A read that takes its visits as moves is made whole after them (20 R68). -/
theorem readMem_of_moved {a : Word} {n : Nat} {rest : List (List Visit)} (ha : a.toNat + n ≤ memoryBytes)
    (hd : s.during = vs :: rest) (hv : TakesMoves a.toNat n vs)
    (h : State.Moved vs { s with during := visitsAfter rest } t) (fp : Bool) :
    readMem fp a n s = .ok (t.load fp a.toNat n) t := by
  obtain ⟨hb, hm⟩ := hv.moves
  simp only [readMem, (inMemory_iff a n).2 ha, hd, readVisits_of_moved hb (hm h), Res.ok_bind, if_true]
  rfl

/-- So is such a write. -/
theorem writeMem_of_moved {a : Word} {n : Nat} {rest : List (List Visit)} (ha : a.toNat + n ≤ memoryBytes)
    (hd : s.during = vs :: rest) (hv : TakesMoves a.toNat n vs)
    (h : State.Moved vs { s with during := visitsAfter rest } t) (fp : Bool) (v : Nat) :
    writeMem fp a n v s = .ok () (t.store (if fp then .float else .other) a.toNat n v) := by
  obtain ⟨hb, hm⟩ := hv.moves
  simp only [writeMem, (inMemory_iff a n).2 ha, hd, writeVisits_of_moved hb (hm h), Res.ok_bind, if_true,
    Memory.writeRest_nil]
  rfl

/-- A fetch that takes its visits as moves sees what they have stored (20 R76, 93 U20). -/
theorem fetchAccess_of_moved {a n : Nat} {rest : List (List Visit)} (hd : s.during = vs :: rest)
    (hv : TakesMoves a n vs) (h : State.Moved vs { s with during := visitsAfter rest, nextByte := a + n } t) :
    fetchAccess a n s =
      if (List.range n).any (fun k => t.storedSince (a + k) 1) then .refused .staleInstructionBytes else .ok () t := by
  obtain ⟨hb, hm⟩ := hv.moves
  rw [fetchAccess, hd]
  exact fetchVisits_of_moved hb (hm h) a n

end Moves

/-- A fetch with an empty list of visits, where nothing has been stored, changes nothing but the lists. -/
theorem fetchAccess_of_nil {s : State} {rest : List (List Visit)} (hd : s.during = [] :: rest) (hc : s.dirty = [])
    (a n : Nat) : fetchAccess a n s = .ok () { s with during := visitsAfter rest, nextByte := a + n } := by
  rw [fetchAccess_of_moved hd (.nil a n) rfl, if_neg]
  simp [State.storedSince, hc]

/-- A fetch is refused where an agent has stored to one of its bytes (20 R76). -/
theorem any_storedSince_iff (t : State) (a n : Nat) : (List.range n).any (fun k => t.storedSince (a + k) 1) = true ↔
    t.romActive = false ∧ ∃ g ∈ t.dirty, ∃ x, g.1 ≤ x ∧ x < g.1 + g.2 ∧ a ≤ x ∧ x < a + n := by
  simp only [State.storedSince, List.any_eq_true, List.mem_range, Bool.and_eq_true, Bool.not_eq_true',
    decide_eq_true_eq]
  constructor
  · rintro ⟨k, hk, hr, g, hg, h1, h2⟩
    exact ⟨hr, g, hg, a + k, by omega, h2, by omega, by omega⟩
  · rintro ⟨hr, g, hg, x, h1, h2, h3, h4⟩
    exact ⟨x - a, by omega, hr, g, hg, by omega, by omega⟩

/-! ### Bytes visited one by one (20 R71) -/

section Bytes

variable {s t : State} {a : Word} {n k : Nat} {vs : List Visit} {rest : List (List Visit)}
  (ha : a.toNat + n ≤ memoryBytes) (hn : atomicAccess a.toNat n = false) (hk : k < n)
  (hd : s.during = (.byte k :: vs) :: rest) (hb : ∀ j, Visit.byte j ∉ vs)

include ha hn hk hd hb

/-- A read that is not atomic takes the byte visited first before the moves, and the others after them. -/
theorem readMem_of_byte (h : State.Moved vs { s with during := visitsAfter rest } t) (hp : s.Plain) :
    readMem false a n s =
      .ok (littleEndian (fun x => (if x = a.toNat + k then s else t).mem.get x) a.toNat n) t := by
  have taken : s.byteSeen false a.toNat n (a.toNat + k) = s.mem.get (a.toNat + k) :=
    State.byteSeen_of_not_stale (hp.not_stale (.inl rfl) _)
  have seen (x : Nat) : t.byteSeen false a.toNat n x = t.mem.get x :=
    State.byteSeen_of_not_stale ((h.plain hp).not_stale (.inl rfl) _)
  have visits : readVisits false a.toNat n (visitsOf a.toNat n (.byte k :: vs)) [] { s with during := visitsAfter rest }
      = .ok [(a.toNat + k, s.mem.get (a.toNat + k))] t := by
    rw [visitsOf, if_neg (by simp [hn]), readVisits, if_pos (by simp [hk]), readVisits_of_moved hb h, ← taken]
    rfl
  simp only [readMem, (inMemory_iff a n).2 ha, hd, visits, Res.ok_bind, if_true, State.bytesSeen_eq]
  congr 1
  refine littleEndian_congr fun x _ _ => ?_
  by_cases hx : x = a.toNat + k
  · simp [hx]
  · simp [hx, seen, List.lookup, beq_eq_false_iff_ne.2 hx]

/-- A write that is not atomic stores the byte visited first before the moves, and the others after them. -/
theorem writeMem_of_byte {v : Nat} (h : State.Moved vs { s with
      during := visitsAfter rest, mem := s.mem.set (a.toNat + k) (BitVec.ofNat 8 (v / 256 ^ k)) } t) :
    writeMem false a n v s = .ok () { t.store .other a.toNat n v with
      mem := t.mem.writeRest [a.toNat + k] a.toNat n v } := by
  have visits : writeVisits a.toNat n v (visitsOf a.toNat n (.byte k :: vs)) [] { s with during := visitsAfter rest }
      = .ok [a.toNat + k] t := by
    rw [visitsOf, if_neg (by simp [hn]), writeVisits, if_pos (by simp [hk])]
    exact writeVisits_of_moved hb h _ _ _ _
  simp only [writeMem, (inMemory_iff a n).2 ha, hd, visits, Res.ok_bind, if_true]
  rfl

end Bytes

/-! ### Instructions of the statement -/

/-- Addition is that of bit vectors (40 R141). -/
theorem addResult_des {w : Nat} (a b : BitVec w) : (addResult a b false).des = b + a := by
  simp [addResult, arithResult, BitVec.ofInt_add]

/-- A read with an empty list of visits, where no misaligned Real or Longreal is stored, gives the bytes of memory and
changes nothing but the lists. -/
theorem readMem_of_nil {s : State} {a : Word} {n : Nat} {rest : List (List Visit)} (hp : s.Plain)
    (hd : s.during = [] :: rest) (ha : a.toNat + n ≤ memoryBytes) :
    readMem false a n s = .ok (s.mem.read a.toNat n) { s with during := visitsAfter rest } := by
  rw [readMem_of_moved ha hd (.nil _ _) rfl]
  exact congrArg (Res.ok · _) (State.load_of_plain (s := { s with during := visitsAfter rest }) hp _ _)

/-- The operand at an address, once its bytes are read. -/
theorem readPlace_of_readMem {t : OpType} {a : Word} {s u : State} {v : Nat} (h : readMem t.isFp a t.len s = .ok v u) :
    readPlace t (.mem a) s = .ok (BitVec.ofNat t.bits v) u := by
  rw [readPlace, h, Res.ok_bind]

/-- A second field that is read and then written, once it is found and read. -/
theorem openModified_of_read {t : OpType} {sp0 : Word} {m : Mode t} {p : Place} {v : BitVec t.bits} {s s1 s2 : State}
    (hl : locateField .rw sp0 m s = .ok p s1) (hr : readPlace t p s1 = .ok v s2) :
    openModified sp0 m s = .ok (v, p) (stepRegister m s2) := by
  rw [openModified, hl, Res.ok_bind, hr, Res.ok_bind]

/-- Both fetches of a Word Direct field whose lists of visits are empty. -/
theorem fetchField_wordDirect_of_nil {t : OpType} {a : Word} {s : State} {rest : List (List Visit)}
    (hd : s.during = [] :: [] :: rest) (hc : s.dirty = []) : fetchField .rw (.wordDirect a : Mode t) s =
      .ok () { s with during := visitsAfter rest, nextByte := s.nextByte + 5 } := by
  change (fetchAccess s.nextByte 1 s).bind (fun _ u => fetchAccess u.nextByte 4 u) = _
  rw [fetchAccess_of_nil hd hc, Res.ok_bind]
  exact fetchAccess_of_nil (s := { s with during := [] :: rest, nextByte := s.nextByte + 1 }) rfl hc (s.nextByte + 1) 4

/-- ADDW of a register to a word of memory: the moves of the write's visits are made between its read and its write
(20 R71). -/
theorem exec_addw_of_moved {s t : State} {vs : List Visit} {a : Word} {r : Reg} (h4 : a.toNat % 4 = 0)
    (ha : a.toNat + 4 ≤ memoryBytes) (hp : s.Plain) (hiv : Ps.iv s.ps = false) (hc : s.dirty = [])
    (hd : s.during = [[], [], [], [], vs])
    (h : State.Moved vs { s with during := [[]], nextByte := s.nextByte + 6 } t) :
    let sum := addResult (s.reg r) (BitVec.ofNat 32 (s.mem.read a.toNat 4)) false
    exec (.addw (.register r) (.wordDirect a)) s = .next (((t.store .other a.toNat 4 sum.des.toNat).setFlags sum).advance
      (Instr.addw (.register r) (.wordDirect a)).length) := by
  intro sum
  have atomic : atomicAccess a.toNat 4 = true := by simp [atomicAccess, h4]
  have first : readField s.sp (.register r : Mode .word) s =
      .ok (s.reg r) { s with during := [[], [], [], vs], nextByte := s.nextByte + 1 } := by
    rw [readField_register (by decide) (fetchAccess_of_nil hd hc _ _)]
    exact congrArg (Res.ok · _) (BitVec.setWidth_eq _)
  have fetched : fetchField .rw (.wordDirect a : Mode .word)
      { s with during := [[], [], [], vs], nextByte := s.nextByte + 1 } =
      .ok () { s with during := [[], vs], nextByte := s.nextByte + 6 } :=
    fetchField_wordDirect_of_nil (s := { s with during := [[], [], [], vs], nextByte := s.nextByte + 1 }) rfl hc
  have second : openModified s.sp (.wordDirect a : Mode .word)
      { s with during := [[], [], [], vs], nextByte := s.nextByte + 1 } =
      .ok (BitVec.ofNat 32 (s.mem.read a.toNat 4), .mem a) { s with during := [vs], nextByte := s.nextByte + 6 } := by
    have word := readMem_of_nil (s := { s with during := [[], vs], nextByte := s.nextByte + 6 }) hp rfl ha
    refine openModified_of_read ?_ (readPlace_of_readMem word)
    rw [locateField, fetched]
    rfl
  have stored : writePlace .word (.mem a) sum.des { s with during := [vs], nextByte := s.nextByte + 6 } =
      .ok () (t.store .other a.toNat 4 sum.des.toNat) :=
    writeMem_of_moved (s := { s with during := [vs], nextByte := s.nextByte + 6 }) ha rfl (.inl atomic) h false _
  have core := h.sameCore
  have iv : Ps.iv ((t.store .other a.toNat 4 sum.des.toNat).setFlags sum).ps = false := by
    simpa [State.setFlags, core.ps] using hiv
  have ends : exec (.addw (.register r) (.wordDirect a)) s = finish s (storeInteger
      (Instr.addw (.register r) (.wordDirect a)).length .word (.mem a) sum
      { s with during := [vs], nextByte := s.nextByte + 6 }) := by
    change integerModify (Instr.addw (.register r) (.wordDirect a)).length (.register r) (.wordDirect a)
      (fun _ x y => addResult x y false) s = _
    rw [integerModify, first, Res.ok_bind, second]
    rfl
  rw [ends, storeInteger, stored, Res.ok_bind, deliverOverflow, iv, Bool.and_false, Bool.false_and]
  refine finish_ok ?_
  have sp : t.sp = s.sp := core.sp
  simp [State.advance, State.setFlags, sp, crossed]

/-- STPR of IR to a register reads the ports after the fetches of both fields (45 R341, 46 R370). -/
theorem exec_stpr_inputReady {s t u : State} {r : Reg} (h1 : fetchAccess s.nextByte 1 s = .ok () t)
    (h2 : fetchAccess t.nextByte 1 t = .ok () u) :
    exec (.stpr (.literal 7) (.register r)) s = .next (((u.setReg r u.inputReady).setFlags
      (logicResult u.inputReady (Ps.c u.ps))).advance (Instr.stpr (.literal 7) (.register r)).length) := by
  have first : readField s.sp (.literal 7 : Mode .byte) s = .ok 7 t := congrArg (Res.bind · _) (congrArg (Res.bind · _) h1)
  have core := (fetchAccess_eq_ok h1).1.trans (fetchAccess_eq_ok h2).1
  have he : exec (.stpr (.literal 7) (.register r)) s = finish s (.ok () (((u.setReg r u.inputReady).setFlags
      (logicResult u.inputReady (Ps.c u.ps))).advance (Instr.stpr (.literal 7) (.register r)).length)) := by
    change execStpr _ _ s = _
    rw [execStpr, first, Res.ok_bind, openWritten_register h2, Res.ok_bind, storeInteger, writePlace_word_reg]
    exact congrArg (finish s) (deliverOverflow_false _ _)
  rw [he]
  refine finish_ok ?_
  simp [State.advance, State.setFlags, core.sp, crossed]

/-- Settles O9: each access is the load or the store at the end of its visits. -/
theorem memoryAccesses : Obligations.MemoryAccesses := by
  unfold Obligations.MemoryAccesses
  intro later kind atomic
  have after (rest : List (List Visit)) : later rest = visitsAfter rest := by
    cases rest <;> rfl
  refine ⟨?_, ?_, ?_, ?_, ?_, ?_, ?_⟩
  · intro fp a n v s
    refine ⟨fun h => ⟨readMem_outside h fp s, writeMem_outside h fp v s⟩, fun h hd =>
      ⟨⟨_, (readMem_eq_ok hd).2 ⟨h, rfl, rfl⟩⟩, _, (writeMem_eq_ok hd).2 ⟨h, rfl⟩, rfl, fun x => ?_, fun hm => ?_,
        fun g => ?_⟩⟩
    · exact Memory.get_write_eq _ _ _ _ _
    · exact State.wf_store hm h
    · have processor : kind fp ≠ .agent := by
        cases fp <;> exact nofun
      exact (readMem_eq_ok (s := s.store (kind fp) a.toNat n v) hd).2 ⟨h, (s.load_store processor g _ _ _).symm, rfl⟩
  · intro fp a n s hd ha hw
    have fresh (x : Nat) : s.stale fp a.toNat n x = false := by
      rcases hw with ⟨hp, hf⟩ | ⟨rfl, hf⟩
      · exact hp.not_stale hf x
      · exact State.not_stale_of_widths hf _ x
    have value : s.load fp a.toNat n = littleEndian s.mem.get a.toNat n := by
      rw [State.load_of_not_stale fresh, Memory.read_eq]
    exact ⟨_, (readMem_eq_ok hd).2 ⟨ha, value.symm, rfl⟩, littleEndian_lt _ _ _, fun j hj => ofNat_littleEndian_div _ _ hj⟩
  · intro fp a n v s t vs rest ha hd hn h
    rw [after] at h
    have taken : TakesMoves a.toNat n vs := .inl ((atomicAccess_iff _ _).2 hn)
    exact ⟨readMem_of_moved ha hd taken h fp, writeMem_of_moved ha hd taken h fp v⟩
  · intro a n v k s t vs rest ha hn hk hd hb hp
    rw [after]
    have single : atomicAccess a.toNat n = false := Bool.eq_false_iff.2 fun e => hn ((atomicAccess_iff _ _).1 e)
    refine ⟨fun h => ⟨_, readMem_of_byte ha single hk hd hb h hp, littleEndian_lt _ _ _, fun j hj => ?_⟩,
      fun h => ⟨_, writeMem_of_byte ha single hk hd hb h, fun x => ?_⟩⟩
    · rw [ofNat_littleEndian_div _ _ hj]
      simp
    · rw [Memory.get_writeRest]
      simp
  · intro s t vs a r h4 ha hp hiv hc hd h word
    refine ⟨_, exec_addw_of_moved h4 ha hp hiv hc hd h, ?_, rfl, rfl, rfl⟩
    rw [addResult_des, Memory.ofNat_read_word]
    rfl
  · intro a n s t vs rest hn hd h stored
    rw [after] at h
    rw [fetchAccess_of_moved hd (.inl ((atomicAccess_iff _ _).2 hn)) h]
    have iff := any_storedSince_iff t a n
    exact ⟨fun hs => if_neg fun e => hs (iff.1 e), fun hs => if_pos (iff.2 hs)⟩
  · intro s t u r h1 h2
    exact ⟨_, exec_stpr_inputReady h1 h2, State.reg_setReg_self _ _ _, rfl⟩

end Sys2Proof.Machine
end

section
/-! SUPPORT. What an instruction that meets an uncorrectable memory error leaves as it was (O59): 60 R419, 93 U3; log
21. -/

namespace Sys2Proof.Machine

/-! ### Bits of PS that become free values -/

/-- A bit outside the mask is kept. -/
theorem getLsbD_scramblePs (which : Nat) {mask : Word} (s : State) {j : Nat} (h : mask.getLsbD j = false) :
    (scramblePs which mask s).ps.getLsbD j = s.ps.getLsbD j := by
  by_cases hj : j < 32
  · simp only [scramblePs_ps, BitVec.getLsbD_or, BitVec.getLsbD_and, BitVec.getLsbD_not, h, hj, decide_true, Bool.not_false,
      Bool.and_true, Bool.and_false, Bool.or_false]
  · rw [BitVec.getLsbD_of_ge _ _ (Nat.le_of_not_lt hj), BitVec.getLsbD_of_ge _ _ (Nat.le_of_not_lt hj)]

/-- PS.REP is bits 31 and 30. -/
theorem Ps.rep_eq_of_bits {p q : Word} (h30 : p.getLsbD 30 = q.getLsbD 30) (h31 : p.getLsbD 31 = q.getLsbD 31) :
    Ps.rep p = Ps.rep q := by
  refine BitVec.eq_of_getLsbD_eq fun j hj => ?_
  rw [Ps.rep, Ps.rep, BitVec.getLsbD_extractLsb', BitVec.getLsbD_extractLsb']
  obtain rfl | rfl : j = 0 ∨ j = 1 := by omega
  · rw [h30]
  · rw [h31]

/-- The skip that a REPEAT makes could have written PS.REP alone (44 R311). -/
theorem scramblePs_rep_and (which : Nat) (s : State) :
    (scramblePs which 0xC0000000 s).ps &&& 0x3FFFFFFF = s.ps &&& 0x3FFFFFFF := by
  have masks : ∀ j, j < 32 → (0x3FFFFFFF : Word).getLsbD j = true → (0xC0000000 : Word).getLsbD j = false := by decide
  refine BitVec.eq_of_getLsbD_eq fun j hj => ?_
  rw [BitVec.getLsbD_and, BitVec.getLsbD_and]
  cases hk : (0x3FFFFFFF : Word).getLsbD j
  · rw [Bool.and_false, Bool.and_false]
  · rw [getLsbD_scramblePs which s (masks j hj hk)]

/-- An instruction whose fields write w and leave SP at sp comes to its end, or at least writes its flags. -/
def WritesStatus (i : Instr) (w : Touched) (sp : Word) : Prop :=
  w.evaluated = true ∧ stackInside i sp = true ∧ (w.storable = true ∨ flagsBeforeStore i = true)

/-- A bit that the instruction does not write is not in its mask: PS.REP is a transfer's, the others are its flags. -/
theorem getLsbD_psMask_eq_false {i : Instr} {ps sp : Word} {w : Touched} {j : Nat}
    (ht : j < 30 ∨ (isTransfer i = true → Ps.rep ps = 0))
    (hs : WritesStatus i w sp → (statusBits i ps).getLsbD j = false) : (psMask i ps w sp).getLsbD j = false := by
  have low : ∀ k, k < 30 → (0xC0000000#32).getLsbD k = false := by decide
  have transfer : (if isTransfer i && Ps.rep ps != 0 then 0xC0000000#32 else 0#32).getLsbD j = false := by
    split
    · rename_i h
      simp only [Bool.and_eq_true, bne_iff_ne, ne_eq] at h
      rcases ht with hj | ht
      · exact low j hj
      · exact absurd (ht h.1) h.2
    · exact BitVec.getLsbD_zero
  have status : (if w.evaluated && stackInside i sp && (w.storable || flagsBeforeStore i) then statusBits i ps
      else 0#32).getLsbD j = false := by
    split
    · rename_i h
      simp only [Bool.and_eq_true, Bool.or_eq_true] at h
      exact hs ⟨h.1.1, h.1.2, h.2⟩
    · exact BitVec.getLsbD_zero
  rw [psMask, BitVec.getLsbD_or]
  exact Bool.or_eq_false_iff.2 ⟨transfer, status⟩

/-! ### What is written besides general registers, memory, SP and PS -/

/-- t is s but for what the instruction i, which began in s0, could have written besides general registers, memory, SP
and PS: LDPR its processor register, LPTR, LCNT, BPTR and BCNT ports, RSET what it clears, ERON and EROF the ERROR flag,
RETI the marker, a floating-point instruction FR. -/
structure SpecialKept (i : Instr) (s0 s t : State) : Prop where
  regs : t.regs = s.regs
  mem : t.mem = s.mem
  romActive : t.romActive = s.romActive
  waiting : t.waiting = s.waiting
  processor : (∀ src des, i ≠ .ldpr src des) →
    t.ps = s.ps ∧ t.sp = s.sp ∧ t.cr = s.cr ∧ t.pi = s.pi ∧ t.tr = s.tr
  enables : (∀ src des, i ≠ .ldpr src des) → i ≠ .rset → t.oe = s.oe ∧ t.ie = s.ie
  ports : i ≠ .rset → (∀ src des, i ≠ .lptr src des ∧ i ≠ .lcnt src des) →
    (∀ src des, i ≠ .bptr src des ∧ i ≠ .bcnt src des) →
    t.inPorts = s.inPorts ∧ t.outPorts = s.outPorts ∧ t.broadcast = s.broadcast ∧ t.pe = s.pe ∧ t.io = s.io
  errorFlag : i ≠ .eron → i ≠ .erof → t.errorFlag = s.errorFlag
  ueMarker : i ≠ .reti ∨ stackInside .reti s0.sp = false → t.ueMarker = s.ueMarker
  fr : (∀ f ∈ i.fields, f.type.isFp = false) → t.fr = s.fr
  cePending : i ≠ .rset → t.cePending = s.cePending

theorem SpecialKept.refl (i : Instr) (s0 s : State) : SpecialKept i s0 s s := by
  constructor <;> intros <;> and_intros <;> rfl

/-! Each special write on its own. -/

theorem scramblePort_kept (i : Instr) (s0 s : State) (count : Bool) (n : Byte)
    (h : ∃ src des, i = .lptr src des ∨ i = .lcnt src des) : SpecialKept i s0 s (scramblePort count n s) := by
  obtain ⟨src, des, h⟩ := h
  unfold scramblePort
  split
  · exact .refl i s0 s
  all_goals
    dsimp only
    cases count
    all_goals
      constructor
      case ports => exact fun _ hp => absurd h (not_or.2 (hp src des))
      all_goals intros; and_intros <;> rfl

theorem scrambleProcessorRegister_kept (s0 s : State) (src : Mode .word) (des k : _) :
    SpecialKept (.ldpr src des) s0 s (scrambleProcessorRegister k s) := by
  unfold scrambleProcessorRegister
  dsimp only
  split
  all_goals
    constructor
    case processor => exact fun h => absurd rfl (h src des)
    case enables => exact fun h => absurd rfl (h src des)
    all_goals intros; and_intros <;> rfl

theorem scrambleSelected_kept (i : Instr) (s0 s : State) (count : Bool) (m : Word)
    (h : ∃ src des, i = .bptr src des ∨ i = .bcnt src des) : SpecialKept i s0 s (scrambleSelected count m s) := by
  obtain ⟨src, des, h⟩ := h
  constructor
  case ports => exact fun _ _ hb => absurd h (not_or.2 (hb src des))
  all_goals intros; and_intros <;> rfl

theorem scramblePorts_kept (s0 s : State) : SpecialKept .rset s0 s (scramblePorts s) := by
  constructor
  case enables => exact fun _ h => absurd rfl h
  case ports => exact fun h => absurd rfl h
  case cePending => exact fun h => absurd rfl h
  all_goals intros; and_intros <;> rfl

theorem errorFlag_kept {i : Instr} (h : i = .eron ∨ i = .erof) (s0 s : State) (b : Bool) :
    SpecialKept i s0 s { s with errorFlag := b } := by
  constructor
  case errorFlag => exact fun h1 h2 => absurd h (not_or.2 ⟨h1, h2⟩)
  all_goals intros; and_intros <;> rfl

theorem ueMarker_kept {s0 : State} (h : stackInside .reti s0.sp = true) (s : State) (b : Bool) :
    SpecialKept .reti s0 s { s with ueMarker := b } := by
  constructor
  case ueMarker => exact fun hm => hm.elim (absurd rfl ·) fun e => absurd (h.symm.trans e) nofun
  all_goals intros; and_intros <;> rfl

theorem fr_kept {i : Instr} (h : ∃ f ∈ i.fields, f.type.isFp = true) (s0 s : State) (v : Word) :
    SpecialKept i s0 s { s with fr := v } := by
  obtain ⟨f, hf, hfp⟩ := h
  constructor
  case fr => exact fun hn => absurd (hfp.symm.trans (hn f hf)) nofun
  all_goals intros; and_intros <;> rfl

/-- The special writes of an instruction keep what it does not write; all is kept where its fields cannot be read. -/
theorem scrambleSpecial_kept (i : Instr) (s0 s : State) : SpecialKept i s0 s (scrambleSpecial i s0 s) := by
  unfold scrambleSpecial
  dsimp only
  split
  case h_1 src des =>
    split
    · exact scrambleProcessorRegister_kept s0 s src des _
    · exact .refl _ s0 s
  case h_2 src des =>
    split
    · exact scramblePort_kept _ s0 s _ _ ⟨src, des, .inl rfl⟩
    · exact .refl _ s0 s
  case h_3 src des =>
    split
    · exact scramblePort_kept _ s0 s _ _ ⟨src, des, .inr rfl⟩
    · exact .refl _ s0 s
  case h_4 src des =>
    split
    · exact scrambleSelected_kept _ s0 s _ _ ⟨src, des, .inl rfl⟩
    · exact .refl _ s0 s
  case h_5 src des =>
    split
    · exact scrambleSelected_kept _ s0 s _ _ ⟨src, des, .inr rfl⟩
    · exact .refl _ s0 s
  case h_6 => exact errorFlag_kept (.inl rfl) s0 s _
  case h_7 => exact errorFlag_kept (.inr rfl) s0 s _
  case h_8 =>
    split
    · rename_i inside
      exact ueMarker_kept inside s _
    · exact .refl _ s0 s
  case h_9 => exact scramblePorts_kept s0 s
  case h_10 =>
    split
    · rename_i floating
      exact fr_kept (by simpa using floating) s0 s _
    · exact .refl _ s0 s

/-! ### An abandoned instruction -/

/-- The registers and bytes that the instruction i could have written in s are free values, its fields having been
evaluated to s1 and written w. -/
def State.freedStorage (i : Instr) (s s1 : State) (w : Touched) : State :=
  scrambleRegisters ((w.ranges ++ if w.evaluated then pushedWords i s1.sp else []).foldl
    (fun t r => scrambleBytes t r.1 r.2) s1) (w.regs ++ if Ps.rep s.ps = 0 then [] else [Ps.repReg s.ps])

/-- SP and the bits of PS that it could have written are free values too. -/
def State.freed (i : Instr) (s s1 : State) (w : Touched) : State :=
  scramblePs 2 (psMask i s.ps w s1.sp) { s.freedStorage i s1 w with
    sp := if w.sp || (w.evaluated && movesSp i s1.sp) then s.free 1 else (s.freedStorage i s1 w).sp }

/-- An instruction that no REPEAT skips is abandoned with these values. -/
theorem abandoned_eq {i : Instr} {s s1 : State} {w : Touched} (hi : isUnimplemented i = false)
    (hr : Ps.rep s.ps = 0 ∨ repeatEnds s = false) (h : fieldsTouched s.sp none i.fields s = .ok w s1) :
    abandoned i s = .ok () (if w.evaluated then scrambleSpecial i s (s.freed i s1 w) else s.freed i s1 w) := by
  have executed : abandoned i s = abandonedExecution i s := by
    rcases hr with hr | hr <;> simp [abandoned, hr]
  rw [executed, abandonedExecution, hi, h]
  rfl

section Freed

variable {i : Instr} {s s1 : State} {w : Touched} (h : fieldsTouched s.sp none i.fields s = .ok w s1)

include h

/-- What evaluating the fields and freeing registers and bytes has touched. -/
theorem State.freedStorage_touches : State.Touches (w.regs ++ if Ps.rep s.ps = 0 then [] else [Ps.repReg s.ps])
    (fun x => (w.ranges ++ if w.evaluated then pushedWords i s1.sp else []).any fun g =>
      decide (g.1 ≤ x) && decide (x < g.1 + g.2)) w.sp s (s.freedStorage i s1 w) :=
  ((fieldsTouched_touches h).trans ((scrambleRanges_touches s1 _).trans (scrambleRegisters_touches _ _))).mono
    (fun r hr => by simpa using hr) (fun x hx => by simpa using hx) (by simp)

theorem State.get_freed_regs {r : Reg} (hr : r ∉ w.regs) (hc : Ps.rep s.ps ≠ 0 → r ≠ Ps.repReg s.ps) :
    (s.freed i s1 w).regs.get r = s.regs.get r := by
  refine (State.freedStorage_touches h).registers r fun hm => ?_
  rcases List.mem_append.1 hm with hm | hm
  · exact hr hm
  · split at hm
    · cases hm
    · rename_i hp
      exact hc hp (List.mem_singleton.1 hm)

theorem State.get_freed_mem (hd : s.during = []) {x : Nat} (hx : ∀ g ∈ w.ranges, x < g.1 ∨ g.1 + g.2 ≤ x)
    (hp : w.evaluated = true → ∀ g ∈ pushedWords i s1.sp, x < g.1 ∨ g.1 + g.2 ≤ x) :
    (s.freed i s1 w).mem.get x = s.mem.get x := by
  refine ((State.freedStorage_touches h).agents hd).memory x (List.any_eq_false.2 fun g hg => ?_)
  have out : x < g.1 ∨ g.1 + g.2 ≤ x := by
    rcases List.mem_append.1 hg with hg | hg
    · exact hx g hg
    · split at hg
      · rename_i he
        exact hp he g hg
      · cases hg
  simp only [Bool.and_eq_true, decide_eq_true_eq]
  omega

theorem State.freed_sp (h1 : w.sp = false) (h2 : w.evaluated = true → movesSp i s1.sp = false) :
    (s.freed i s1 w).sp = s.sp := by
  have unmoved : (w.sp || (w.evaluated && movesSp i s1.sp)) = false := by
    cases he : w.evaluated
    · simp [h1]
    · simp [h1, h2 he]
  rw [State.freed, scramblePs_sp, unmoved]
  exact (State.freedStorage_touches h).sp h1

/-- A bit of PS that the instruction does not write is kept. -/
theorem State.getLsbD_freed_ps {j : Nat} (ht : j < 30 ∨ (isTransfer i = true → Ps.rep s.ps = 0))
    (hs : WritesStatus i w s1.sp → (statusBits i s.ps).getLsbD j = false) :
    (s.freed i s1 w).ps.getLsbD j = s.ps.getLsbD j := by
  rw [State.freed, getLsbD_scramblePs _ _ (getLsbD_psMask_eq_false ht hs)]
  exact congrArg (BitVec.getLsbD · j) (State.freedStorage_touches h).ps

theorem State.rep_freed (ht : isTransfer i = true → Ps.rep s.ps = 0)
    (hs : WritesStatus i w s1.sp → statusBits i s.ps &&& 0xC0000000 = 0) :
    Ps.rep (s.freed i s1 w).ps = Ps.rep s.ps := by
  have bit (j : Nat) (hj : (0xC0000000#32).getLsbD j = true) (he : WritesStatus i w s1.sp) :
      (statusBits i s.ps).getLsbD j = false := by
    simpa [hj] using congrArg (BitVec.getLsbD · j) (hs he)
  exact Ps.rep_eq_of_bits (State.getLsbD_freed_ps h (.inr ht) (bit 30 (by decide)))
    (State.getLsbD_freed_ps h (.inr ht) (bit 31 (by decide)))

end Freed

end Sys2Proof.Machine
end

section
/-! SUPPORT. Turns with memory errors (O59): 20 R70; 60 R402, R418, R419, R424, R446; log 21, 49. -/

namespace Sys2Proof.Machine

/-! ### The frame of an abandoned instruction (60 R419, 93 U3) -/

/-- What an abandoned instruction keeps: registers, memory, SP and PS as `State.freed` does, the rest as
`SpecialKept` does, and all of it where its fields fault. -/
theorem abandoned_kept {i : Instr} {s s1 u : State} {w : Touched} (hi : isUnimplemented i = false)
    (hr : Ps.rep s.ps = 0 ∨ repeatEnds s = false) (h : fieldsTouched s.sp none i.fields s = .ok w s1)
    (hu : abandoned i s = .ok () u) :
    SpecialKept i s (s.freed i s1 w) u ∧ (w.evaluated = false → u = s.freed i s1 w) := by
  rw [abandoned_eq hi hr h] at hu
  cases hu
  cases he : w.evaluated
  · exact ⟨.refl i s _, fun _ => rfl⟩
  · exact ⟨scrambleSpecial_kept i s _, nofun⟩

/-- The skip of an instruction, where no other agent moves (44 R311). -/
theorem abandoned_of_skipped {i : Instr} {s : State} (hd : s.during = []) (hr : Ps.rep s.ps ≠ 0)
    (hi : isUnimplemented i = false)
    (he : (Ps.rep s.ps = 2 ∧ Ps.z s.ps = false) ∨ (Ps.rep s.ps = 3 ∧ Ps.z s.ps = true) ∨ s.reg (Ps.repReg s.ps) = 0) :
    abandoned i s = .ok () (scramblePs 2 0xC0000000 s) := by
  have ends : repeatEnds s = true := by
    simpa [repeatEnds, or_assoc] using he
  rw [abandoned, if_pos (by simpa [hi, ends] using hr), abandonedSkip, fetchFields_of_quiet _ hd]
  rfl

/-! ### Turns (20 R70; 60 R402) -/

theorem uncorrectableIn_iff (eccs : List Ecc) : uncorrectableIn eccs = true ↔ Ecc.uncorrectable ∈ eccs :=
  List.contains_iff_mem

/-- A step that the schedule gives to the processor is its turn (log 1). -/
theorem step_of_schedule_processor {s : State} {eccs : List Ecc} {during : List (List Visit)} {rest : List Event}
    (h : s.schedule = .processor eccs during :: rest) :
    step s = processorTurn eccs { s with schedule := rest, during := during } := by
  simp only [step, h]

section Turn

variable {s : State} {eccs : List Ecc}

/-- A turn that executes an instruction and meets an uncorrectable error in it. -/
theorem processorTurn_of_abandons (hs : s.stuck = false) (hw : s.waiting = false) (hr : s.romActive = false)
    (hn : s.nextInterrupt = none) (he : Ecc.uncorrectable ∈ eccs) :
    processorTurn eccs s = abandonAtPc (s.prepared (correctedIn eccs)) := by
  simp [processorTurn, activeTurn, hs, hw, hr, hn, (uncorrectableIn_iff eccs).2 he]

/-- A turn that takes an interrupt. -/
theorem processorTurn_of_interrupt {n : Nat} (hs : s.stuck = false) (hn : s.nextInterrupt = some n) :
    processorTurn eccs s =
      let entered := if correctedIn eccs then correctedInEntry (takeInterrupt n s) else takeInterrupt n s
      if uncorrectableIn eccs then errorInEntry s entered else entered := by
  simp only [processorTurn, activeTurn, hs, hn, Bool.false_eq_true, if_false]

/-- Outside the shadow ROM a corrected error is noted before the instruction (60 R418; log 43). -/
theorem State.prepared_eq (hr : s.romActive = false) (ce : Bool) : s.prepared ce = { s with
    inhibit := false, traceDue := true, freeCount := s.freeCount + 1, cePending := s.cePending || ce } := by
  have noted : (s.cePending || (ce && !s.romActive)) = (s.cePending || ce) := by simp [hr]
  rw [State.prepared, noted]

/-- An instruction whose bytes are not stale is abandoned with interrupt 15 pending (60 R419). -/
theorem abandonAtPc_of_abandoned {i : Instr} {bs : List Byte} {t u : State} (hi : decode s.fetchBytes = .ok (i, bs))
    (hc : s.staleCode i.length = false) (ht : fetchOpcode s = .ok () t) (hu : abandoned i t = .ok () u) :
    abandonAtPc s = .next (u.noteUncorrectable s.unserviced) := by
  simp only [abandonAtPc, hi, abandonFetched, hc, ht, Res.ok_bind, hu, Bool.false_eq_true, if_false]

/-- An opcode byte above memory is not read: the error is in the entry of its Address Error (log 49). -/
theorem abandonAtPc_outside (hr : s.romActive = false) (h : memoryBytes ≤ s.pc.toNat) :
    abandonAtPc s = errorInEntry s (finish s (.exc 11 s)) := by
  rw [← runAtPc_outside hr h, abandonAtPc, fetchBytes_outside hr h]
  rfl

/-- Taking an interrupt with memory errors in its entry: the entry is complete, with 14 or 15 pending (log 21). -/
theorem processorTurn_of_canEnter {n : Nat} (hs : s.stuck = false) (hn : s.nextInterrupt = some n)
    (h : s.canEnter n s.pc) (hc : crossed s.sp (s.sp - 8) = false) :
    processorTurn eccs s =
      let t : State := { s.entered n s.pc with
        cePending := (s.cePending && n != 14) || correctedIn eccs
        uePending := s.uePending && n != 15
        ueMarker := s.ueMarker || n == 15 }
      .next (if uncorrectableIn eccs then t.noteUncorrectable s.unserviced else t) := by
  have running : (s.entered n s.pc).stuck = false := (State.entered_stuck s n s.pc).trans hs
  rw [processorTurn_of_interrupt hs hn, takeInterrupt_of_canEnter h hc]
  cases correctedIn eccs
  · simp only [Bool.or_false, Bool.false_eq_true, if_false]
    split
    · exact errorInEntry_next running
    · rfl
  · simp only [Bool.or_true, if_true]
    rw [correctedInEntry_next (by exact running)]
    split
    · exact errorInEntry_next running
    · rfl

end Turn

/-! ### The vector that an entry reads (60 R404) -/

/-- Byte j of a word of memory. -/
theorem Memory.extractLsb'_read_word (m : Memory) (a : Nat) {j : Nat} (hj : j < 4) :
    (BitVec.ofNat 32 (m.read a 4)).extractLsb' (8 * j) 8 = m.get (a + j) := by
  have range : m.read a 4 < 2 ^ 32 := by
    rw [Memory.read_eq]
    exact littleEndian_lt _ a 4
  rw [← ofNat_div_eq_extractLsb', BitVec.toNat_ofNat, Nat.mod_eq_of_lt range, Memory.read_eq,
    ofNat_littleEndian_div _ _ hj]

/-- The PC of an entry is read past the pushes, as its PS is (`State.entered_ps`). -/
theorem State.entered_pc (s : State) (n : Nat) (q : Word) (h : s.Plain) (h1 : 8 * n + 8 ≤ (s.sp - 8).toNat)
    (h2 : (s.sp - 8).toNat ≤ (s.sp - 4).toNat) : (s.entered n q).pc = BitVec.ofNat 32 (s.mem.read (8 * n) 4) := by
  have plain : ({ { s with sp := s.sp - 4 }.store .other (s.sp - 4).toNat 4 s.ps.toNat with
      sp := s.sp - 8 }.store .other (s.sp - 8).toNat 4 q.toNat).Plain :=
    (h.store (k := .other) (by decide) (s.sp - 4).toNat 4 s.ps.toNat).store (k := .other) (by decide)
      (s.sp - 8).toNat 4 q.toNat
  have loaded : (s.entered n q).pc = BitVec.ofNat 32 ((s.entered n q).mem.read (8 * n) 4) :=
    congrArg (BitVec.ofNat 32) (State.load_of_plain plain _ _)
  rw [loaded, Memory.read_eq, Memory.read_eq]
  refine congrArg (BitVec.ofNat 32) (littleEndian_congr fun x _ hx => State.get_entered s n q ?_)
  simp only [pushedEight, Bool.or_eq_false_iff, Bool.and_eq_false_iff, decide_eq_false_iff_not]
  omega

/-- The PC value that an entry has pushed, low-order byte first (60 R404). -/
theorem State.get_entered_pushed (s : State) (n : Nat) (q : Word) {j : Nat} (h : 8 ≤ s.sp.toNat) (hj : j < 4) :
    (s.entered n q).mem.get (s.sp.toNat - 8 + j) = q.extractLsb' (8 * j) 8 := by
  have below : (s.sp - 8).toNat = s.sp.toNat - 8 := by bv_omega
  rw [State.entered_mem, below, Memory.get_write_eq, if_pos ⟨by omega, by omega⟩, Nat.add_sub_cancel_left,
    ofNat_div_eq_extractLsb']

/-- Settles O59: the turn's case is found, and its state is the one that the lemmas above describe. -/
theorem memoryErrorsInterrupt : Obligations.MemoryErrorsInterrupt := by
  unfold Obligations.MemoryErrorsInterrupt
  intro corrected
  have noted {eccs : List Ecc} {ce : Bool} (h : ce = true ↔ corrected eccs) : correctedIn eccs = ce :=
    Bool.eq_iff_iff.2 ((correctedIn_iff eccs).trans h.symm)
  refine ⟨?_, ?_, ?_, ?_, ?_, ?_⟩
  · intro s bs eccs during sched i ce hsch hce hs hw hr hn hi hc t u0 hu0
    have turn := step_of_schedule_processor hsch
    have prepared := State.prepared_eq (s := { s with schedule := sched, during := during }) hr ce
    refine ⟨(fetchAccess_eq_ok hu0).1.cePending, fun hp he => ?_, fun he u hu => ?_⟩
    · have clean : uncorrectableIn eccs = false :=
        Bool.eq_false_iff.2 fun e => he ((uncorrectableIn_iff eccs).1 e)
      have runs := processorTurn_of_runs (s := { s with schedule := sched, during := during }) hs hw hn clean
      rw [noted hce, prepared] at runs
      have decoded : runAtPc t = runFetched i t := by
        rw [runAtPc, show decode t.fetchBytes = .ok (i, bs) from hi]
      exact turn.trans (runs.trans (decoded.trans (runFetched_of_fetchOpcode hc hu0 hp)))
    · have abandons := processorTurn_of_abandons (s := { s with schedule := sched, during := during }) hs hw hr hn he
      rw [noted hce, prepared] at abandons
      exact turn.trans (abandons.trans (abandonAtPc_of_abandoned (s := t) hi hc hu0 hu))
  · intro i s u hd hr hi he hu
    rw [abandoned_of_skipped hd hr hi he] at hu
    cases hu
    exact ⟨_, rfl, scramblePs_rep_and 2 s⟩
  · intro s op
    simp [abandoned, abandonedExecution, isUnimplemented]
  · intro i s s1 u w hd hi hr hf hu ended
    obtain ⟨kept, same⟩ := abandoned_kept hi hr hf hu
    have touched := State.freedStorage_touches hf
    have agents := touched.agents hd
    refine ⟨fun r h1 h2 => ?_, fun x h1 h2 => ?_, fun hl => ?_, ?_, fun h1 h2 => ?_, fun h1 => ?_, fun h1 => ?_,
      fun h1 => ?_, ?_, ?_⟩
    · rw [kept.regs, State.get_freed_regs hf h1 h2]
    · rw [kept.mem, State.get_freed_mem hf hd h1 h2]
    · obtain ⟨ps, sp, -⟩ := kept.processor hl
      rw [ps, sp]
      exact ⟨fun j hj hs => State.getLsbD_freed_ps hf (.inl hj) hs, State.rep_freed hf, State.freed_sp hf⟩
    · cases he : w.evaluated
      · rw [same he]
        exact fun _ => ⟨touched.cr, touched.pi, agents.tr, fun _ => ⟨touched.oe, touched.ie, fun _ =>
          ⟨agents.inPorts, agents.outPorts, agents.broadcast, agents.pe, agents.io⟩⟩⟩
      · simp only [Bool.true_eq_false, false_or]
        intro hl
        obtain ⟨-, -, cr, pi, tr⟩ := kept.processor hl
        refine ⟨cr.trans touched.cr, pi.trans touched.pi, tr.trans agents.tr, fun hrset => ?_⟩
        obtain ⟨oe, ie⟩ := kept.enables hl hrset
        refine ⟨oe.trans touched.oe, ie.trans touched.ie, fun ⟨hp, hb⟩ => ?_⟩
        obtain ⟨inPorts, outPorts, broadcast, pe, io⟩ := kept.ports hrset hp hb
        exact ⟨inPorts.trans agents.inPorts, outPorts.trans agents.outPorts, broadcast.trans agents.broadcast,
          pe.trans agents.pe, io.trans agents.io⟩
    · exact (kept.errorFlag h1 h2).trans touched.errorFlag
    · exact (kept.ueMarker h1).trans touched.ueMarker
    · rcases h1 with he | hn
      · rw [same he]
        exact touched.fr
      · exact (kept.fr hn).trans touched.fr
    · exact (kept.cePending h1).trans touched.cePending
    · exact kept.romActive.trans touched.romActive
    · exact kept.waiting.trans touched.waiting
  · intro s eccs ce sched n hsch hce hs noteIn s0 t begun
    have turn := step_of_schedule_processor hsch
    refine ⟨fun hn h hc => ?_, fun hn hw hr hpc h hc he => ?_⟩
    · have enters := processorTurn_of_canEnter (s := s0) (eccs := eccs) hs hn h hc
      rw [noted hce] at enters
      refine ⟨fun he => turn.trans (enters.trans ?_), fun he => turn.trans (enters.trans ?_)⟩
      · exact congrArg Host.Outcome.next (if_neg fun e => he ((uncorrectableIn_iff eccs).1 e))
      · exact congrArg Host.Outcome.next (if_pos ((uncorrectableIn_iff eccs).2 he))
    · have abandons := processorTurn_of_abandons (s := s0) hs hw hr hn he
      rw [noted hce, State.prepared_eq (s := s0) hr ce, abandonAtPc_outside (s := begun) hr hpc,
        finish_exc_of_canEnter (s := begun) h hc, errorInEntry_next (by exact hs)] at abandons
      exact turn.trans abandons
  · intro s hsch hs hn h hc hp hsp
    have quiet : ({ s with during := [] } : State) = s := by
      rw [← h.2.1]
    have turn : step s = .next { s.entered 15 s.pc with
        cePending := (s.cePending && 15 != 14) || false
        uePending := s.uePending && 15 != 15
        ueMarker := s.ueMarker || 15 == 15 } :=
      (step_of_schedule_nil hsch).trans
        ((congrArg (processorTurn []) quiet).trans (processorTurn_of_canEnter hs hn h hc))
    have vector : 8 * 15 + 8 ≤ (s.sp - 8).toNat ∧ (s.sp - 8).toNat ≤ (s.sp - 4).toNat := by
      constructor <;> bv_omega
    refine ⟨_, turn, Bool.or_true _, Bool.and_false _, rfl, rfl, State.entered_sp s 15 s.pc,
      fun j hj => State.get_entered_pushed s 15 s.pc (by omega) hj, fun j hj => ?_, fun j hj => ?_⟩
    · rw [State.entered_pc s 15 s.pc hp vector.1 vector.2, Memory.extractLsb'_read_word _ _ hj]
    · rw [State.entered_ps s 15 s.pc hp vector.1 vector.2, Memory.extractLsb'_read_word _ _ hj]

end Sys2Proof.Machine
end

section
/-! SUPPORT. Decoding and encoding (O1, O2, O3): 30 R90, R94 to R98, R115, R123. -/

namespace Sys2Proof

/-! ### Little-endian values (20 R62, R63) -/

theorem leValue_lt (bs : List Byte) : leValue bs < 256 ^ bs.length := by
  induction bs with
  | nil => exact Nat.one_pos
  | cons b bs ih =>
    have := b.isLt
    simp only [leValue, List.length_cons, Nat.pow_succ]
    omega

/-- The value of the n low-order bytes of v is v cut off to n bytes. -/
theorem leValue_leBytes (n v : Nat) : leValue (leBytes n v) = v % 256 ^ n := by
  induction n generalizing v with
  | zero => simp [leBytes, leValue, Nat.mod_one]
  | succ n ih =>
    rw [leBytes, leValue, ih, Nat.pow_succ', Nat.mod_mul]
    rfl

/-- Bytes are those of their value. -/
theorem leBytes_leValue (bs : List Byte) : leBytes bs.length (leValue bs) = bs := by
  induction bs with
  | nil => rfl
  | cons b bs ih =>
    have hb := b.isLt
    have low : BitVec.ofNat 8 (leValue (b :: bs)) = b := by
      apply BitVec.eq_of_toNat_eq
      simp only [leValue, BitVec.toNat_ofNat]
      omega
    have high : leValue (b :: bs) / 256 = leValue bs := by
      simp only [leValue]
      omega
    rw [List.length_cons, leBytes, low, high, ih]

/-- The bytes after a mode byte give back the number they were made of, where they are enough for its width. -/
theorem ofNat_leValue_leBytes {w n : Nat} (h : 2 ^ w = 256 ^ n) (v : BitVec w) :
    BitVec.ofNat w (leValue (leBytes n v.toNat)) = v := by
  rw [leValue_leBytes, ← h, Nat.mod_eq_of_lt v.isLt, BitVec.ofNat_toNat, BitVec.setWidth_eq]

/-- And the number gives back the bytes. -/
theorem leBytes_ofNat_leValue {w n : Nat} (h : 2 ^ w = 256 ^ n) {bs : List Byte} (hn : bs.length = n) :
    leBytes n (BitVec.ofNat w (leValue bs)).toNat = bs := by
  have lt := leValue_lt bs
  rw [hn, ← h] at lt
  rw [BitVec.toNat_ofNat, Nat.mod_eq_of_lt lt, ← hn, leBytes_leValue]

/-- An immediate occupies all the bits of its bytes. -/
theorem OpType.two_pow_bits (t : OpType) : 2 ^ t.bits = 256 ^ (t.bits / 8) := by
  cases t <;> rfl

/-! ### Mode bytes (30 R98) -/

theorem modeByte_toNat {md : Nat} (h : md < 16) (r : Reg) : (modeByte md r).toNat = md * 16 + r.val := by
  have := r.isLt
  simp only [modeByte, BitVec.toNat_ofNat]
  omega

theorem modeByte_div {md : Nat} (h : md < 16) (r : Reg) : (modeByte md r).toNat / 16 = md := by
  rw [modeByte_toNat h]
  omega

theorem regOfMode_modeByte {md : Nat} (h : md < 16) (r : Reg) : regOfMode (modeByte md r) = r := by
  apply Fin.ext
  simp only [regOfMode, modeByte_toNat h]
  omega

theorem modeByte_regOfMode {md : Nat} {b : Byte} (h : b.toNat / 16 = md) : modeByte md (regOfMode b) = b := by
  apply BitVec.eq_of_toNat_eq
  simp only [modeByte, regOfMode, BitVec.toNat_ofNat]
  omega

theorem literal_div (n : BitVec 6) : (n.setWidth 8 : Byte).toNat / 16 < 4 := by
  have := n.isLt
  simp only [BitVec.toNat_setWidth]
  omega

theorem setWidth_of_literal {b : Byte} (h : b.toNat / 16 < 4) : (b.setWidth 6).setWidth 8 = b := by
  apply BitVec.eq_of_toNat_eq
  simp only [BitVec.toNat_setWidth]
  omega

theorem isReservedMode_iff (b : Byte) :
    isReservedMode b = true ↔ b.toNat / 16 = 14 ∨ b.toNat / 16 = 15 ∧ 14 ≤ b.toNat % 16 := by
  have := b.isLt
  simp only [isReservedMode, Bool.or_eq_true, decide_eq_true_eq]
  omega

/-! ### Address fields (30 R98, R115) -/

theorem Mode.isTruncated_of_wellFormed {t : OpType} {m : Mode t} (h : m.wellFormed = true) : m.isTruncated = false := by
  cases m with
  | truncated b => cases h
  | _ => rfl

theorem withExtension_append {t : OpType} {n : Nat} {b : Byte} {bs rest : List Byte} {mk : Nat → Mode t}
    (h : bs.length = n) : withExtension n b (bs ++ rest) mk = (mk (leValue bs), rest) := by
  subst h
  simp [withExtension]

/-- A field whose further bytes are the number v of w bits. -/
theorem withExtension_leBytes {t : OpType} {w n : Nat} {b : Byte} {rest : List Byte} {mk : BitVec w → Mode t}
    (h : 2 ^ w = 256 ^ n) (v : BitVec w) :
    withExtension n b (leBytes n v.toNat ++ rest) (fun x => mk (BitVec.ofNat w x)) = (mk v, rest) := by
  rw [withExtension_append (leBytes_length n _), ofNat_leValue_leBytes h]

/-- The first four rows of mode bytes are literals. -/
theorem decodeField_of_literal {t : OpType} {b : Byte} (h : b.toNat / 16 < 4) (bs : List Byte) :
    decodeField t (b :: bs) = (.literal (b.setWidth 6), bs) := by
  have : b.toNat / 16 = 0 ∨ b.toNat / 16 = 1 ∨ b.toNat / 16 = 2 ∨ b.toNat / 16 = 3 := by omega
  rcases this with h | h | h | h <;> simp [decodeField, h]

/-- A reserved mode byte is a field of its own. -/
theorem decodeField_of_reserved {t : OpType} {b : Byte} (h : isReservedMode b = true) (bs : List Byte) :
    decodeField t (b :: bs) = (.reserved b, bs) := by
  have lt := b.isLt
  rcases (isReservedMode_iff b).1 h with h14 | ⟨h15, low⟩
  · simp [decodeField, h14]
  · have : b.toNat % 16 = 14 ∨ b.toNat % 16 = 15 := by omega
    rcases this with h | h <;> simp [decodeField, decodeSpecial, h15, h]

/-- A field decodes to itself: its mode byte gives its mode and its register, the bytes after it its number. -/
theorem decodeField_encodeField {t : OpType} {m : Mode t} (h : m.wellFormed = true) (rest : List Byte) :
    decodeField t (encodeField m ++ rest) = (m, rest) := by
  cases m with
  | literal n =>
    refine (decodeField_of_literal (literal_div n) rest).trans ?_
    rw [BitVec.setWidth_setWidth_of_le n (by decide), BitVec.setWidth_eq]
  | regIndirect r | autoskip r | autoinc r | autoincInd r | register r | autodec r =>
    simp [encodeField, decodeField, modeByte_div, regOfMode_modeByte]
  | byteOffReg r d | halfOffReg r d | wordOffReg r d | wordOffRegInd r d =>
    simp [encodeField, decodeField, modeByte_div, regOfMode_modeByte, withExtension_leBytes]
  | byteOffPc d | halfOffPc d | wordOffPc d | wordOffPcInd d | byteOffSp d | halfOffSp d | wordOffSp d
  | wordOffSpInd d | byteDirect d | halfDirect d | wordDirect d | wordIndirect d | stk =>
    simp [encodeField, decodeField, decodeSpecial, withExtension_leBytes]
  | immediate v => simp [encodeField, decodeField, decodeSpecial, withExtension_leBytes, OpType.two_pow_bits]
  | reserved b => exact decodeField_of_reserved h rest
  | truncated b => cases h

/-- What a field with further bytes has been decoded from, where they are all there. -/
theorem encodeField_of_withExtension {t : OpType} {w n : Nat} {b : Byte} {bs rest : List Byte} {m : Mode t}
    {mk : BitVec w → Mode t} (hd : withExtension n b bs (fun x => mk (BitVec.ofNat w x)) = (m, rest))
    (hm : m.isTruncated = false) (h : 2 ^ w = 256 ^ n)
    (he : ∀ v, (mk v).wellFormed = true ∧ encodeField (mk v) = b :: leBytes n v.toNat) :
    m.wellFormed = true ∧ encodeField m ++ rest = b :: bs := by
  unfold withExtension at hd
  split at hd <;> cases hd
  · cases hm
  · rename_i hn
    obtain ⟨hw, hv⟩ := he (BitVec.ofNat w (leValue (bs.take n)))
    refine ⟨hw, ?_⟩
    rw [hv, leBytes_ofNat_leValue h (List.length_take_of_le (Nat.le_of_not_lt hn)), List.cons_append,
      List.take_append_drop]

/-- The special modes have the mode bytes 0xF0 to 0xFD; the two above them are reserved. -/
theorem encodeField_of_decodeSpecial {t : OpType} {b : Byte} {bs rest : List Byte} {m : Mode t}
    (hb : b.toNat / 16 = 15) (hd : decodeSpecial b bs = (m, rest)) (hm : m.isTruncated = false) :
    m.wellFormed = true ∧ encodeField m ++ rest = b :: bs := by
  have byte {k : Nat} (h : b.toNat % 16 = k) : b = BitVec.ofNat 8 (240 + k) := by
    rw [← BitVec.toNat_inj, BitVec.toNat_ofNat]
    omega
  unfold decodeSpecial at hd
  split at hd
  case h_13 h =>
    cases hd
    rw [byte h]
    exact ⟨rfl, rfl⟩
  case h_14 h =>
    rw [byte h] at hd ⊢
    exact encodeField_of_withExtension hd hm t.two_pow_bits fun _ => ⟨rfl, rfl⟩
  case h_15 =>
    cases hd
    simp only [imp_false] at *
    exact ⟨(isReservedMode_iff b).2 (.inr ⟨hb, by omega⟩), rfl⟩
  all_goals
    rename_i h
    rw [byte h] at hd ⊢
    exact encodeField_of_withExtension hd hm rfl fun _ => ⟨rfl, rfl⟩

/-- A field that is decoded is well formed, and encodes to the bytes that it was decoded from. -/
theorem encodeField_of_decodeField {t : OpType} {bs rest : List Byte} {m : Mode t}
    (hd : decodeField t bs = (m, rest)) (hm : m.isTruncated = false) :
    m.wellFormed = true ∧ encodeField m ++ rest = bs := by
  cases bs with
  | nil =>
    cases hd
    cases hm
  | cons b bs =>
    rw [decodeField] at hd
    split at hd
    case h_1 h | h_2 h | h_3 h | h_4 h =>
      cases hd
      exact ⟨rfl, congrArg (· :: rest) (setWidth_of_literal (by omega))⟩
    case h_5 h | h_6 h | h_7 h | h_8 h | h_13 h | h_14 h =>
      cases hd
      exact ⟨rfl, congrArg (· :: rest) (modeByte_regOfMode h)⟩
    case h_9 h | h_10 h | h_11 h | h_12 h =>
      exact encodeField_of_withExtension hd hm rfl fun v =>
        ⟨rfl, congrArg (· :: leBytes _ v.toNat) (modeByte_regOfMode h)⟩
    case h_15 h =>
      cases hd
      exact ⟨(isReservedMode_iff b).2 (.inl h), rfl⟩
    case h_16 =>
      have := b.isLt
      simp only [imp_false] at *
      exact encodeField_of_decodeSpecial (by omega) hd hm

/-! ### Opcodes (30 R94, R95) -/

/-- The instruction that a shape without fields stands for. -/
def Shape.bare : Shape → Option Instr
  | .op0 i => some i
  | _ => none

theorem Shape.bare_eq_some {sh : Shape} {i : Instr} : sh.bare = some i ↔ sh = .op0 i := by
  cases sh <;> simp [Shape.bare]

theorem opcodeShape_of_reserved {op : Byte} (h : isReservedOpcode op = true) : opcodeShape op = .op0 (.res op) := by
  rw [← Shape.bare_eq_some]
  revert op
  decide

theorem opcodeShape_of_escape {op : Byte} (h : isEscapeOpcode op = true) : opcodeShape op = .op0 (.esc op) := by
  rw [← Shape.bare_eq_some]
  revert op
  decide

/-- The instruction of a shape whose fields are all STK. -/
def Shape.sample : Shape → Instr
  | .op0 i => i
  | .op1 _ mk => mk .stk
  | .op2 _ _ mk => mk .stk .stk

/-- Every opcode byte begins a well-formed instruction. -/
theorem exists_layout (op : Byte) : ∃ (i : Instr) (fs : List Field), i.layout = (op, fs) ∧ i.wellFormed = true := by
  obtain ⟨opcode, wf⟩ : (opcodeShape op).sample.layout.1 = op ∧ (opcodeShape op).sample.wellFormed = true := by
    revert op
    decide
  exact ⟨_, (opcodeShape op).sample.layout.2, Prod.ext opcode rfl, wf⟩

/-- An instruction i is one of a shape, and every instruction of that shape has the opcode byte op, is laid out in the
fields that the shape takes, and is well formed as they are. -/
inductive Shape.Makes (op : Byte) (sh : Shape) : Instr → Prop
  | op0 {i : Instr} (h : sh = .op0 i) (layout : i.layout = (op, [])) (wf : i.wellFormed = true) : Makes op sh i
  | op1 {t : OpType} {mk : Mode t → Instr} {k : Access} (m : Mode t) (h : sh = .op1 t mk)
      (layout : ∀ m, (mk m).layout = (op, [⟨t, k, m⟩]))
      (wf : ∀ m, (mk m).wellFormed = m.wellFormed) : Makes op sh (mk m)
  | op2 {t u : OpType} {mk : Mode t → Mode u → Instr} {k l : Access} (m : Mode t) (n : Mode u) (h : sh = .op2 t u mk)
      (layout : ∀ m n, (mk m n).layout = (op, [⟨t, k, m⟩, ⟨u, l, n⟩]))
      (wf : ∀ m n, (mk m n).wellFormed = (m.wellFormed && n.wellFormed)) : Makes op sh (mk m n)

/-- The opcode map and the layout of instructions agree. -/
theorem opcodeShape_makes {i : Instr} {op : Byte} {fs : List Field} (h : i.layout = (op, fs))
    (hi : i.wellFormed = true) : (opcodeShape op).Makes op i := by
  cases i with
  | res op =>
    cases h
    exact .op0 (opcodeShape_of_reserved hi) rfl hi
  | esc op =>
    cases h
    exact .op0 (opcodeShape_of_escape hi) rfl hi
  | nop | clc | stc | cmc | eron | erof | bkpt | rset | ei | di | wait | ret | reti | rett =>
    cases h
    exact .op0 rfl rfl rfl
  | bg m | rep m | ble m | repz m | bgu m | repnz m | bleu m | trap m | bge m | bl m | bgeu m | blu m | bne m | be m
  | bnv m | bv m | call m | jmp m | retp m =>
    cases h
    exact .op1 m rfl (fun _ => rfl) (fun _ => rfl)
  | _ m n =>
    cases h
    exact .op2 m n rfl (fun _ _ => rfl) (fun _ _ => rfl)

/-! ### Instructions (30 R90, R123) -/

/-- Settles O1: the opcode byte gives the shape that makes the instruction, and each of its fields decodes to itself. -/
theorem decodingAnEncodingGivesTheInstruction : Obligations.DecodingAnEncodingGivesTheInstruction := by
  intro i rest hi
  cases opcodeShape_makes rfl hi with
  | op0 h layout => simp [encode, encodeFields, layout, decode, h]
  | op1 m h layout wf =>
    rw [wf] at hi
    simp [encode, encodeFields, layout, decode, h, decodeField_encodeField hi, Mode.isTruncated_of_wellFormed hi]
  | op2 m n h layout wf =>
    rw [wf, Bool.and_eq_true] at hi
    obtain ⟨hm, hn⟩ := hi
    simp [encode, encodeFields, layout, decode, h, decodeField_encodeField hm, decodeField_encodeField hn,
      Mode.isTruncated_of_wellFormed hm, Mode.isTruncated_of_wellFormed hn]

/-- Settles O2: the opcode byte gives the shape of what is decoded, and each of its fields is read back from its
bytes. -/
theorem encodingADecodingGivesTheBytes : Obligations.EncodingADecodingGivesTheBytes := by
  intro bs rest i hd
  cases bs with
  | nil => cases hd
  | cons op bs =>
    obtain ⟨j, fs, hj, wfj⟩ := exists_layout op
    cases opcodeShape_makes hj wfj with
    | op0 h layout wf =>
      simp only [decode, h] at hd
      cases hd
      exact ⟨wf, by simp [encode, layout, encodeFields]⟩
    | @op1 t _ _ _ h layout wf =>
      simp only [decode, h] at hd
      rcases hm : decodeField t bs with ⟨m, rest1⟩
      simp only [hm] at hd
      split at hd <;> cases hd
      rename_i notTruncated
      obtain ⟨wm, em⟩ := encodeField_of_decodeField hm (Bool.eq_false_of_not_eq_true notTruncated)
      exact ⟨(wf m).trans wm, by simp [encode, layout, encodeFields, ← em]⟩
    | @op2 t u _ _ _ _ _ h layout wf =>
      simp only [decode, h] at hd
      rcases hm : decodeField t bs with ⟨m, rest1⟩
      rcases hn : decodeField u rest1 with ⟨n, rest2⟩
      simp only [hm, hn] at hd
      split at hd <;> cases hd
      rename_i notTruncated
      simp only [Bool.or_eq_true, not_or, Bool.not_eq_true] at notTruncated
      obtain ⟨tm, tn⟩ := notTruncated
      obtain ⟨wm, em⟩ := encodeField_of_decodeField hm tm
      obtain ⟨wn, en⟩ := encodeField_of_decodeField hn tn
      exact ⟨(wf m n).trans (by rw [wm, wn]; rfl), by simp [encode, layout, encodeFields, ← em, ← en]⟩

/-- Settles O3: each word is the encoding of its instruction, which decodes to that. -/
theorem sampleEncodingsDecode : Obligations.SampleEncodingsDecode := by
  have word {bs : List Byte} {i : Instr} (he : encode i = bs) (hi : i.wellFormed = true) : decode bs = .ok (i, []) := by
    rw [← he, ← List.append_nil (encode i)]
    exact decodingAnEncodingGivesTheInstruction i [] hi
  and_intros <;> exact word rfl rfl

end Sys2Proof
end

section
/-! SUPPORT. Fields of one byte and what the modes do with their operands (O12 to O14), and the reserved opcodes (O50):
30 R96, R97, R101 to R113, R116 to R119. -/

namespace Sys2Proof.Machine

/-- Other agents leave what a register reads. -/
theorem State.SameCore.reg {s t : State} (h : State.SameCore s t) (n : Reg) : t.reg n = s.reg n := by
  rw [State.reg, State.reg, h.regs, h.pairHazard, h.freeCount]

/-- Within a read only other agents have changed anything. -/
theorem readMem_sameCore {fp : Bool} {a : Word} {n v : Nat} {s t : State} (h : readMem fp a n s = .ok v t) :
    State.SameCore s t := by
  obtain ⟨-, core, -⟩ := readMem_core h
  exact core

/-- Of a field that is only a mode byte, that byte is fetched (30 R123). -/
theorem fetchField_of_size_one {t : OpType} {m : Mode t} (hm : m.size = 1) (k : Access) (s : State) :
    fetchField k m s = fetchAccess s.nextByte 1 s := by
  have size : fetchedSize k m = 1 := by
    rw [fetchedSize, hm]
    exact ite_self 1
  unfold fetchField
  rw [size]

/-! ### From the place of an operand to its value (30 R116 to R119) -/

section Places

variable {t : OpType} {sp0 : Word} {m : Mode t} {p : Place} {s0 s s1 : State} {v : BitVec t.bits}

theorem locateField_of_size_one {k : Access} (hm : m.size = 1) (hf : fetchAccess s0.nextByte 1 s0 = .ok () s)
    (hl : locate k sp0 m s = .ok p s1) : locateField k sp0 m s0 = .ok p s1 := by
  rw [locateField, fetchField_of_size_one hm, hf, Res.ok_bind, hl]

theorem readField_of_read (hl : locateField .r sp0 m s0 = .ok p s) (hr : readPlace t p s = .ok v s1) :
    readField sp0 m s0 = .ok v (popOperand m (stepRegister m s1)) := by
  rw [readField, hl, Res.ok_bind, hr, Res.ok_bind]

theorem readSecond_of_read {u : OpType} {src : Mode u} (hl : locateField .r sp0 m s0 = .ok p s)
    (hr : readPlace t p s = .ok v s1) : readSecond sp0 src m s0 =
      .ok v (if isStk src then popOperand m (stepRegister m s1) else stepRegister m s1) := by
  rw [readSecond, hl, Res.ok_bind, hr, Res.ok_bind]

theorem openWritten_of_located (hl : locateField .w sp0 m s0 = .ok p s) :
    openWritten sp0 m s0 = .ok p (stepRegister m s) := by
  rw [openWritten, hl, Res.ok_bind]

end Places

/-! ### The modes that step a register (30 R102 to R105) -/

section Stepping

variable (t : OpType) {s s1 : State} (h : State.SameCore s s1) (r : Reg)

include h

/-- The step is by what the register held before the access, whatever other agents do within it. -/
theorem stepRegister_autoinc : stepRegister (.autoinc r : Mode t) s1 =
    s1.setReg r (s.reg r + BitVec.ofNat 32 t.len) := by
  rw [stepRegister, h.reg]

theorem stepRegister_autoskip : stepRegister (.autoskip r : Mode t) s1 =
    s1.setReg r (s.reg r + s.reg (r + 1)) := by
  rw [stepRegister, h.reg, h.reg]

theorem stepRegister_autoincInd : stepRegister (.autoincInd r : Mode t) s1 = s1.setReg r (s.reg r + 4) := by
  rw [stepRegister, h.reg]

end Stepping

/-- An indirect operand is where its pointer says (30 R105, R111). -/
theorem locate_pointer {a : Word} {s s1 : State} {p : Nat} (hp : readMem false a 4 s = .ok p s1) :
    ((readMem false a 4 s).bind fun x u => Res.ok (Place.mem (BitVec.ofNat 32 x)) u) =
      .ok (.mem (BitVec.ofNat 32 p)) s1 := by
  rw [hp, Res.ok_bind]

theorem locate_autoincInd {t : OpType} {k : Access} (hk : k ≠ .reg) (sp0 : Word) {r : Reg} {s s1 : State} {p : Nat}
    (hp : readMem false (s.reg r) 4 s = .ok p s1) :
    locate k sp0 (.autoincInd r : Mode t) s = .ok (.mem (BitVec.ofNat 32 p)) s1 :=
  (if_neg (by simpa [modeIllegal] using hk)).trans (locate_pointer hp)

/-- Settles O12: each mode's place, the value read there, and the step of its register after it. -/
theorem steppingModes : Obligations.SteppingModes := by
  intro t s0 s sp0 r _ hf len down
  refine ⟨fun w s1 hw => ⟨?_, ?_⟩, fun w s1 hw => ?_, fun p s1 hp => ⟨?_, fun w s2 hw => ?_⟩, ?_, ?_, ?_⟩
  · exact readField_of_read (locateField_of_size_one rfl hf rfl) (readPlace_of_readMem hw)
  · exact openModified_of_read (locateField_of_size_one rfl hf rfl) (readPlace_of_readMem hw)
  · have core := readMem_sameCore hw
    have read := readPlace_of_readMem hw
    rw [← stepRegister_autoinc t core, ← stepRegister_autoskip t core]
    exact ⟨readField_of_read (locateField_of_size_one rfl hf rfl) read,
      readField_of_read (locateField_of_size_one rfl hf rfl) read,
      openModified_of_read (locateField_of_size_one rfl hf rfl) read,
      openModified_of_read (locateField_of_size_one rfl hf rfl) read⟩
  · rw [← stepRegister_autoincInd t (readMem_sameCore hp)]
    exact openWritten_of_located (locateField_of_size_one rfl hf (locate_autoincInd (by decide) sp0 hp))
  · have core := (readMem_sameCore hp).trans (readMem_sameCore hw)
    have read := readPlace_of_readMem hw
    rw [← stepRegister_autoincInd t core]
    exact ⟨readField_of_read (locateField_of_size_one rfl hf (locate_autoincInd (by decide) sp0 hp)) read,
      openModified_of_read (locateField_of_size_one rfl hf (locate_autoincInd (by decide) sp0 hp)) read⟩
  all_goals exact openWritten_of_located (locateField_of_size_one rfl hf rfl)

/-! ### Effective addresses (30 R101, R106 to R111) -/

/-- Settles O13: a mode that names memory is legal for every access kind but that of REPEAT, and gives its address; an
indirect one reads a pointer there. -/
theorem effectiveAddresses : Obligations.EffectiveAddresses := by
  intro t k s sp0 r b h w hk
  have legal : ¬ (k == .reg) = true := by simpa using hk
  and_intros
  iterate 13 exact if_neg legal
  all_goals exact fun _ _ hp => (if_neg legal).trans (locate_pointer hp)

/-! ### The stack (30 R113) -/

theorem isStk_eq_false {t : OpType} {m : Mode t} (h : m ≠ .stk) : isStk m = false := by
  cases m with
  | stk => exact absurd rfl h
  | _ => rfl

section Stack

variable {t : OpType} {sp0 : Word} {s0 s s1 : State} {w : Nat} (hf : fetchAccess s0.nextByte 1 s0 = .ok () s)
  (hr : readMem t.isFp s.sp t.len s = .ok w s1)

include hf hr

/-- A value operand is popped from where SP stands, and moves of other agents leave SP (30 R113 S1, S7, S8). -/
theorem readField_stk : readField sp0 (.stk : Mode t) s0 =
    .ok (BitVec.ofNat t.bits w) { s1 with sp := s.sp + BitVec.ofNat 32 t.len } := by
  rw [readField_of_read (locateField_of_size_one rfl hf rfl) (readPlace_of_readMem hr), ← (readMem_sameCore hr).sp]
  rfl

/-- So is a second operand that is compared with a popped one (30 R113 S5). -/
theorem readSecond_stk_stk {u : OpType} : readSecond sp0 (.stk : Mode u) (.stk : Mode t) s0 =
    .ok (BitVec.ofNat t.bits w) { s1 with sp := s.sp + BitVec.ofNat 32 t.len } := by
  rw [readSecond_of_read (locateField_of_size_one rfl hf rfl) (readPlace_of_readMem hr), ← (readMem_sameCore hr).sp]
  rfl

/-- One that is compared with another operand stays on the stack (30 R113 S2). -/
theorem readSecond_stk {u : OpType} {m : Mode u} (hm : m ≠ .stk) : readSecond sp0 m (.stk : Mode t) s0 =
    .ok (BitVec.ofNat t.bits w) s1 := by
  rw [readSecond_of_read (locateField_of_size_one rfl hf rfl) (readPlace_of_readMem hr), isStk_eq_false hm]
  rfl

/-- So does one that is read and then written (30 R113 S2, S4). -/
theorem openModified_stk : openModified sp0 (.stk : Mode t) s0 = .ok (BitVec.ofNat t.bits w, .mem s.sp) s1 :=
  openModified_of_read (locateField_of_size_one rfl hf rfl) (readPlace_of_readMem hr)

end Stack

/-- An operand that is only written is pushed (30 R113 S3, S6). -/
theorem openWritten_stk {t : OpType} {sp0 : Word} {s0 s : State} (hf : fetchAccess s0.nextByte 1 s0 = .ok () s) :
    openWritten sp0 (.stk : Mode t) s0 =
      .ok (.mem (s.sp - BitVec.ofNat 32 t.len)) { s with sp := s.sp - BitVec.ofNat 32 t.len } :=
  openWritten_of_located (locateField_of_size_one rfl hf rfl)

/-- Settles O14: each case of the rule, with the SP that the fetch of the field's mode byte finds. -/
theorem stackOperands : Obligations.StackOperands := by
  intro t u s0 s _ _ hf lt lu
  refine ⟨(fetchAccess_eq_ok hf).1.sp, openWritten_stk hf,
    fun w s1 hw => ⟨openModified_stk hf hw, fun m hm => readSecond_stk hf hw hm⟩, fun v s1 hv => ?_⟩
  intro popped
  refine ⟨readField_stk hf hv, fun q hq => ?_⟩
  have sp : q.sp = s.sp + lt := (fetchAccess_eq_ok hq).1.sp
  rw [← sp]
  exact ⟨openWritten_stk hq, fun w s2 hw => ⟨openModified_stk hq hw, readSecond_stk_stk hq hw, readField_stk hq hw⟩⟩

/-! ### Reserved and escape opcodes (30 R96, R97; 60 R414) -/

/-- Settles O50: RES and ESC raise Unimplemented Opcode before anything else has happened. -/
theorem reservedOpcodesEnterInterruptTen : Obligations.ReservedOpcodesEnterInterruptTen := by
  intro op s h hw hc
  have entered := finish_exc_of_canEnter h hc
  exact ⟨entered, entered, State.entered_sameBut s 10 s.pc hw, State.entered_fr s 10 s.pc⟩

end Sys2Proof.Machine
end

section
/-! SUPPORT. Integers as floating-point patterns, and Literal and Immediate operands (O11): 30 R99, R112; 43 R240, R241,
R244, R245. -/

namespace Sys2Proof.Machine

/-! ### Integers as floating-point patterns (43 R240, R241, R245) -/

section Pack

variable (f : FpFormat) (s : Bool) {e m : Nat}

theorem FpFormat.frac_pack (hm : m < 2 ^ f.fracBits) : f.frac (f.pack s e m) = m := by
  rw [frac, pack, Nat.mul_add_mod_self_right, Nat.mod_eq_of_lt hm]

theorem FpFormat.pack_div (hm : m < 2 ^ f.fracBits) : f.pack s e m / 2 ^ f.fracBits = s.toNat * 2 ^ f.expBits + e := by
  rw [pack, Nat.mul_comm, Nat.mul_add_div (Nat.two_pow_pos _), Nat.div_eq_of_lt hm, Nat.add_zero]

theorem FpFormat.exp_pack (he : e < 2 ^ f.expBits) (hm : m < 2 ^ f.fracBits) : f.exp (f.pack s e m) = e := by
  rw [exp, f.pack_div s hm, Nat.mul_add_mod_self_right, Nat.mod_eq_of_lt he]

theorem FpFormat.sign_pack (he : e < 2 ^ f.expBits) (hm : m < 2 ^ f.fracBits) : f.sign (f.pack s e m) = s := by
  have : f.pack s e m / 2 ^ (f.expBits + f.fracBits) = s.toNat := by
    rw [Nat.add_comm, Nat.pow_add, ← Nat.div_div_eq_div_mul, f.pack_div s hm, Nat.mul_comm,
      Nat.mul_add_div (Nat.two_pow_pos _), Nat.div_eq_of_lt he, Nat.add_zero]
  rw [sign, this]
  cases s <;> rfl

/-- A pattern has the bits of its sign, its exponent and its fraction. -/
theorem FpFormat.pack_lt (he : e < 2 ^ f.expBits) (hm : m < 2 ^ f.fracBits) :
    f.pack s e m < 2 ^ (1 + f.expBits + f.fracBits) := by
  rw [Nat.pow_add, ← Nat.div_lt_iff_lt_mul (Nat.two_pow_pos _), f.pack_div s hm, Nat.pow_add]
  cases s <;> simp <;> omega

end Pack

theorem roundsUp_zero (rc : BitVec 2) (s : Bool) (m : Nat) {den : Nat} (h : 0 < den) :
    roundsUp rc s m 0 den = false := by
  unfold roundsUp
  split <;> simp [h.ne]

theorem floorLog2_one {n : Nat} (h : n ≠ 0) : floorLog2 n 1 = n.log2 := by
  have := Nat.log2_self_le h
  have one : Nat.log2 1 = 0 := by decide
  simp [floorLog2, one, this]

/-- The exponents of the integers that the significand holds lie in the range of a format, whose bias is its middle. -/
structure FpFormat.HoldsIntegers (f : FpFormat) : Prop where
  fracBits_le : f.fracBits ≤ f.bias
  bias_pos : 1 ≤ f.bias
  two_bias : 2 * f.bias + 2 = 2 ^ f.expBits

theorem fpFormat_holdsIntegers (t : OpType) : (fpFormat t).HoldsIntegers := by
  constructor <;> cases t <;> decide

/-- A positive integer as a significand of full precision. -/
def FpFormat.normalized (f : FpFormat) (n : Nat) : Nat := n * 2 ^ (f.fracBits - n.log2)

/-- The pattern of a positive integer with a sign. -/
def FpFormat.natPattern (f : FpFormat) (s : Bool) (n : Nat) : Nat :=
  f.pack s (n.log2 + f.bias) (f.normalized n - 2 ^ f.fracBits)

section Integers

variable {f : FpFormat} {n : Nat} (h0 : n ≠ 0) (hn : n < 2 ^ (f.fracBits + 1))

include h0 hn

theorem FpFormat.log2_le : n.log2 ≤ f.fracBits := Nat.lt_succ_iff.1 ((Nat.log2_lt h0).2 hn)

theorem FpFormat.isSignificand_normalized : f.isSignificand (f.normalized n) := by
  have hl := log2_le h0 hn
  constructor
  · calc 2 ^ f.fracBits = 2 ^ n.log2 * 2 ^ (f.fracBits - n.log2) := by rw [← Nat.pow_add, Nat.add_sub_cancel' hl]
      _ ≤ f.normalized n := Nat.mul_le_mul_right _ (Nat.log2_self_le h0)
  · calc f.normalized n < 2 ^ (n.log2 + 1) * 2 ^ (f.fracBits - n.log2) :=
          Nat.mul_lt_mul_of_pos_right Nat.lt_log2_self (Nat.two_pow_pos _)
      _ = 2 ^ (f.fracBits + 1) := by rw [← Nat.pow_add]; congr 1; omega

theorem FpFormat.frac_lt : f.normalized n - 2 ^ f.fracBits < 2 ^ f.fracBits := by
  obtain ⟨-, lt⟩ := isSignificand_normalized h0 hn
  rw [Nat.pow_succ] at lt
  omega

variable (hf : f.HoldsIntegers)

include hf

theorem FpFormat.exp_lt : n.log2 + f.bias < 2 ^ f.expBits - 1 := by
  have hl := log2_le h0 hn
  obtain ⟨h1, h2, h3⟩ := hf
  omega

/-- Nothing of such an integer is rounded away (43 R244, R248). -/
theorem FpFormat.round_nat (rc : BitVec 2) (k : Nat) (s : Bool) :
    f.round rc k s n 1 0 = .value (f.natPattern s n) s false false false false := by
  have hl := log2_le h0 hn
  obtain ⟨h1, h2, -⟩ := hf
  have shift : ((f.fracBits : Int) - (n.log2 : Int)).toNat = f.fracBits - n.log2 := by omega
  have shift' : (-((f.fracBits : Int) - (n.log2 : Int))).toNat = 0 := by omega
  have carry := (isSignificand_normalized h0 hn).2.ne
  have ovf : ¬ (f.bias : Int) < n.log2 := by omega
  have uf : ¬ (n.log2 : Int) < 1 - f.bias := by omega
  have field : (1 : Int) ≤ n.log2 + f.bias ∧ (n.log2 : Int) + f.bias ≤ 2 * f.bias := by omega
  have stored : ((n.log2 : Int) + f.bias).toNat = n.log2 + f.bias := by omega
  simp only [normalized] at carry
  simp only [round, natPattern, normalized, floorLog2_one h0, shift, shift', Nat.pow_zero, Nat.one_mul, Nat.div_one,
    Nat.mod_one, roundsUp_zero, Nat.one_pos, beq_iff_eq, carry, Int.add_zero, ovf, uf, decide_false, if_false, field,
    stored, and_self, if_true, Bool.false_eq_true, ne_eq, not_true]

/-- The pattern is finite, of the bits of its format, and has the value of the integer. -/
theorem FpFormat.natPattern_exact (s : Bool) : f.natPattern s n < 2 ^ (1 + f.expBits + f.fracBits) ∧
    f.isFinite (f.natPattern s n) = true ∧ f.val (f.natPattern s n) = (if s then -1 else 1) * n := by
  have hl := log2_le h0 hn
  have lt := exp_lt h0 hn hf
  have he : n.log2 + f.bias < 2 ^ f.expBits := by omega
  have hm := frac_lt h0 hn
  have exp : f.exp (f.natPattern s n) = n.log2 + f.bias := f.exp_pack s he hm
  have mant : f.mant (f.natPattern s n) = f.normalized n := by
    have pos := hf.bias_pos
    rw [FpFormat.mant, exp, if_neg (by omega), natPattern, f.frac_pack s hm]
    exact Nat.add_sub_cancel' (isSignificand_normalized h0 hn).1
  have scale : f.scale (f.natPattern s n) = -((f.fracBits - n.log2 : Nat) : Int) := by
    have pos := hf.bias_pos
    rw [FpFormat.scale, exp]
    omega
  refine ⟨f.pack_lt s he hm, ?_, ?_⟩
  · simpa [isFinite, exp, maxExp] using lt.ne
  · rw [val, mant, scale, natPattern, f.sign_pack s he hm, normalized, Nat.cast_mul, mul_assoc, mul_assoc, zpow_neg,
      zpow_natCast, Nat.cast_pow, Nat.cast_ofNat, mul_inv_cancel₀ (by positivity), mul_one]

end Integers

/-- The pattern of an integer that the significand holds is finite and has its value; zero is plus zero (30 R99, 43
R245). -/
theorem FpFormat.ofInt_exact {f : FpFormat} {n : Int} (hn : n.natAbs < 2 ^ (f.fracBits + 1)) (hf : f.HoldsIntegers) :
    (f.ofInt n).bits < 2 ^ (1 + f.expBits + f.fracBits) ∧ f.isFinite (f.ofInt n).bits = true ∧
      f.val (f.ofInt n).bits = n ∧ (n = 0 → (f.ofInt n).bits = 0) := by
  by_cases h0 : n = 0
  · have zero : (f.ofInt n).bits = 0 := by simp [ofInt, h0, zeroOf, FpResult.bits, pack]
    have finite : f.isFinite 0 = true := by
      have := hf.two_bias
      have := hf.bias_pos
      simp [isFinite, exp, maxExp]
      omega
    rw [zero, h0]
    exact ⟨Nat.two_pow_pos _, finite, by simp [val, mant, exp, frac], fun _ => rfl⟩
  · have hN : n.natAbs ≠ 0 := Int.natAbs_ne_zero.2 h0
    have bits : (f.ofInt n).bits = f.natPattern (decide (n < 0)) n.natAbs := by
      rw [ofInt, if_neg h0, round_nat hN hn hf, FpResult.bits]
    obtain ⟨lt, finite, value⟩ := natPattern_exact hN hn hf (decide (n < 0))
    rw [bits]
    refine ⟨lt, finite, value.trans ?_, fun h => absurd h h0⟩
    rcases lt_or_gt_of_ne h0 with h | h
    · simp [h, abs_of_neg h]
    · simp [h.le, abs_of_pos h]

/-! ### Literals and immediates (30 R99, R112) -/

/-- A literal reads as its bits for the operand type, in the state that the fetch of its byte leaves. -/
theorem readField_literal {s0 s : State} (hf : fetchAccess s0.nextByte 1 s0 = .ok () s) (t : OpType) (sp0 : Word)
    (n : BitVec 6) : readField sp0 (.literal n : Mode t) s0 = .ok (BitVec.ofNat t.bits (literalBits t n)) s :=
  readField_of_read (locateField_of_size_one rfl hf rfl) rfl

/-- For an integer operand they are its six bits sign-extended. -/
theorem ofNat_literalBits {t : OpType} (ht : t.isFp = false) (n : BitVec 6) :
    BitVec.ofNat t.bits (literalBits t n) = n.signExtend t.bits := by
  rw [literalBits, ht, if_neg Bool.false_ne_true, BitVec.ofNat_toNat, BitVec.setWidth_eq]

/-- For a floating-point one, the pattern of its value: the significand holds six bits. -/
theorem literalBits_exact {t : OpType} (ht : t.isFp = true) (n : BitVec 6) :
    let v := BitVec.ofNat t.bits (literalBits t n)
    (fpFormat t).isFinite v.toNat = true ∧ (fpFormat t).val v.toNat = n.toInt ∧ (n = 0 → v = 0) := by
  have small : n.toInt.natAbs < 2 ^ ((fpFormat t).fracBits + 1) := by
    have six : n.toInt.natAbs < 2 ^ 6 := by
      have := n.two_mul_toInt_lt
      have := n.le_two_mul_toInt
      omega
    exact six.trans_le (Nat.pow_le_pow_right (by decide) (by cases t <;> decide))
  obtain ⟨lt, finite, value, zero⟩ := FpFormat.ofInt_exact small (fpFormat_holdsIntegers t)
  have width : 1 + (fpFormat t).expBits + (fpFormat t).fracBits = t.bits := by
    cases t with
    | real | long => rfl
    | _ => cases ht
  rw [width] at lt
  intro v
  have hv : v.toNat = ((fpFormat t).ofInt n.toInt).bits := by
    rw [BitVec.toNat_ofNat, literalBits, if_pos ht, Nat.mod_eq_of_lt lt]
  rw [hv]
  refine ⟨finite, value, fun h0 => BitVec.eq_of_toNat_eq (hv.trans ?_)⟩
  rw [zero (by rw [h0]; rfl)]
  rfl

/-- Settles O11: a literal reads as the bits of its value, an immediate as its own, and reading them changes nothing. -/
theorem literalAndImmediateOperands : Obligations.LiteralAndImmediateOperands := by
  refine fun s0 s sp0 n => ⟨fun hf => ?_, fun t v hf => ?_⟩
  · have integer {t : OpType} (ht : t.isFp = false) :
        readField sp0 (.literal n : Mode t) s0 = .ok (n.signExtend t.bits) s := by
      rw [readField_literal hf, ofNat_literalBits ht]
    exact ⟨integer rfl, integer rfl, integer rfl, ⟨_, readField_literal hf .real sp0 n, literalBits_exact rfl n⟩,
      ⟨_, readField_literal hf .long sp0 n, literalBits_exact rfl n⟩⟩
  · have located : locateField .r sp0 (.immediate v : Mode t) s0 = .ok (.value v.toNat) s := by
      rw [locateField, hf]
      rfl
    rw [readField_of_read located rfl, BitVec.ofNat_toNat, BitVec.setWidth_eq]
    rfl

end Sys2Proof.Machine
end

section
/-! SUPPORT. Integer arithmetic (O16 to O21): the model's results in the terms of the statements, and the instructions
that deliver them (40 R141 to R153). -/

namespace Sys2Proof.Machine

/-! ### Instructions that are a shape over a result -/

/-- Each instruction that `mk` makes executes as the shape over the operation `op`, at its own length. -/
def HasShape {t u : OpType} {Op : Type}
    (shape : Nat → Mode t → Mode u → Op → State → Host.Outcome State Fault Refusal)
    (mk : Mode t → Mode u → Instr) (op : Op) : Prop :=
  ∀ src des s, exec (mk src des) s = shape (mk src des).length src des op s

section Shapes

variable {t u : OpType} {mk : Mode t → Mode u → Instr}

/-- An instruction whose meaning is the shape that modifies delivers any result equal to that of the shape. -/
theorem modifiesInteger_of_exec {op res : Bool → BitVec t.bits → BitVec u.bits → AluResult u.bits}
    (he : HasShape integerModify mk op)
    (hr : ∀ c a b, op c a b = res c a b) : ModifiesInteger mk res := by
  obtain rfl : op = res := by
    funext c a b
    exact hr c a b
  exact fun src des s _ _ _ _ _ h hw => integerModify_ends (he src des s) h hw

/-- The same for the shape that only writes. -/
theorem writesInteger_of_exec {op res : Bool → BitVec t.bits → AluResult u.bits}
    (he : HasShape integerWrite mk op)
    (hr : ∀ c a, op c a = res c a) : WritesInteger mk res := by
  obtain rfl : op = res := by
    funext c a
    exact hr c a
  exact fun src des s _ _ _ _ h hw => integerWrite_ends (he src des s) h hw

/-- The same for the shape that compares. -/
theorem comparesInteger_of_exec {op res : Bool → BitVec t.bits → BitVec u.bits → AluResult u.bits}
    (he : HasShape integerCompare mk op)
    (hr : ∀ c a b, op c a b = res c a b) : ComparesInteger mk res := by
  obtain rfl : op = res := by
    funext c a b
    exact hr c a b
  exact fun src des s _ _ _ h => integerCompare_ends (he src des s) h

/-- The same for the shape that divides, with or without a result. -/
theorem dividesInteger_of_exec {op res : Bool → BitVec t.bits → BitVec u.bits → Option (AluResult u.bits)}
    (he : HasShape integerDivide mk op)
    (hr : ∀ c a b, op c a b = res c a b) : DividesInteger mk res := by
  obtain rfl : op = res := by
    funext c a b
    exact hr c a b
  exact fun src des s _ _ _ _ h =>
    ⟨fun _ _ hr hw => integerDivide_ends (he src des s) h hr hw, integerDivide_zero (he src des s) h⟩

end Shapes

/-! ### Exact results (40 R140) -/

/-- What the exact value of an operation gives: its low part, and V when it does not fit. -/
theorem arithResult_eq (w : Nat) (exact : Int) (carry : Bool) : arithResult w exact carry =
    { des := BitVec.ofInt w exact
      c := carry
      v := decide (exact < -2 ^ (w - 1) ∨ 2 ^ (w - 1) - 1 < exact)
      z := decide (BitVec.ofInt w exact = 0)
      n := decide (exact < 0) } := by
  simp only [arithResult, outOfRange, Bool.decide_or, beq_eq_decide]

/-! ### Add, subtract, multiply (40 R141 to R145, R148) -/

/-- Settles O16: ADD is ADC without a carry in. -/
theorem addResultsAndFlags : Obligations.AddResultsAndFlags := by
  have add {t : OpType} {mk : Mode t → Mode t → Instr} (cin : Bool → Bool)
      (he : HasShape integerModify mk fun c a b => addResult a b (cin c)) :=
    modifiesInteger_of_exec he fun c a b => arithResult_eq _ _ _
  exact ⟨add (fun _ => false) fun _ _ _ => rfl, add (fun _ => false) fun _ _ _ => rfl,
    add (fun _ => false) fun _ _ _ => rfl, add id fun _ _ _ => rfl, add id fun _ _ _ => rfl,
    add id fun _ _ _ => rfl⟩

/-- SBR is SUB with its operands exchanged (40 R145). -/
theorem sbrResult_eq_subResult {w : Nat} (src dsrc : BitVec w) : sbrResult src dsrc = subResult dsrc src false := by
  simp [sbrResult, subResult]

/-- Settles O17: SUB is SBB without a borrow in, and SBR is SUB with its operands exchanged. -/
theorem subtractResultsAndFlags : Obligations.SubtractResultsAndFlags := by
  have sub {t : OpType} {mk : Mode t → Mode t → Instr} (cin : Bool → Bool)
      (he : HasShape integerModify mk fun c a b => subResult a b (cin c)) :=
    modifiesInteger_of_exec he fun c a b => arithResult_eq _ _ _
  have sbr {t : OpType} {mk : Mode t → Mode t → Instr}
      (he : HasShape integerModify mk fun _ a b => sbrResult a b) :=
    modifiesInteger_of_exec he fun _ a b => (sbrResult_eq_subResult a b).trans (arithResult_eq _ _ _)
  exact ⟨sub (fun _ => false) fun _ _ _ => rfl, sub (fun _ => false) fun _ _ _ => rfl,
    sub (fun _ => false) fun _ _ _ => rfl, sub id fun _ _ _ => rfl, sub id fun _ _ _ => rfl,
    sub id fun _ _ _ => rfl, sbr fun _ _ _ => rfl, sbr fun _ _ _ => rfl, sbr fun _ _ _ => rfl⟩

/-- Settles O19: the product goes through the general shape of an exact result, with the carry as it was. -/
theorem multiplyResultsAndFlags : Obligations.MultiplyResultsAndFlags := by
  have mul {t : OpType} {mk : Mode t → Mode t → Instr}
      (he : HasShape integerModify mk fun c a b => mulResult a b c) :=
    modifiesInteger_of_exec he fun c a b => arithResult_eq _ _ _
  exact ⟨mul fun _ _ _ => rfl, mul fun _ _ _ => rfl, mul fun _ _ _ => rfl⟩

/-! ### Negate and compare (40 R146, R147) -/

/-- C of NEG: the operand is 0 when its unsigned value is. -/
theorem bne_zero_eq_decide {w : Nat} (x : BitVec w) : (x != 0) = decide (x.toNat ≠ 0) := by
  rw [Bool.eq_iff_iff, bne_iff_ne, decide_eq_true_iff]
  exact not_congr BitVec.toNat_inj.symm

theorem negResult_eq {w : Nat} (src : BitVec w) : negResult src =
    { des := BitVec.ofInt w (-src.toInt)
      c := decide (src.toNat ≠ 0)
      v := decide (-src.toInt < -2 ^ (w - 1) ∨ 2 ^ (w - 1) - 1 < -src.toInt)
      z := decide (BitVec.ofInt w (-src.toInt) = 0)
      n := decide (-src.toInt < 0) } := by
  rw [negResult, arithResult_eq, bne_zero_eq_decide]

/-- The sign of the exact difference is the signed order of the operands. -/
theorem cmpResult_eq {w : Nat} (src dsrc : BitVec w) : cmpResult src dsrc =
    { des := 0
      c := decide (src.toNat < dsrc.toNat)
      v := false
      z := decide (src.toInt = dsrc.toInt)
      n := decide (src.toInt < dsrc.toInt) } := by
  simp only [cmpResult, sub_eq_zero, sub_neg]

/-- Settles O18: NEG goes through the shape that only writes, so its destination is not read; CMP stores nothing. -/
theorem negateAndCompareFlags : Obligations.NegateAndCompareFlags := by
  have neg {t : OpType} {mk : Mode t → Mode t → Instr}
      (he : HasShape integerWrite mk fun _ a => negResult a) :=
    writesInteger_of_exec he fun _ a => negResult_eq a
  have cmp {t : OpType} {mk : Mode t → Mode t → Instr}
      (he : HasShape integerCompare mk fun _ a b => cmpResult a b) :=
    comparesInteger_of_exec he fun _ a b => cmpResult_eq a b
  exact ⟨neg fun _ _ _ => rfl, neg fun _ _ _ => rfl, neg fun _ _ _ => rfl, cmp fun _ _ _ => rfl,
    cmp fun _ _ _ => rfl, cmp fun _ _ _ => rfl⟩

/-! ### Divide and remainder (40 R149 to R151, R155) -/

/-- The quotient, with the one case in which it does not fit. -/
theorem divResult_eq {w : Nat} (x y : BitVec w) (c : Bool) : divResult x y c =
    let exact : Int := x.toInt.tdiv y.toInt
    let special := decide (x.toInt = -2 ^ (w - 1) ∧ y.toInt = -1)
    let des := if special then x else BitVec.ofInt w exact
    if y.toInt = 0 then none
    else some { des := des, c := c, v := special, z := decide (des = 0), n := decide (exact < 0) } := by
  simp only [divResult, Bool.decide_and, beq_eq_decide]

/-- The remainder of a truncated division is what the quotient times the divisor leaves of the dividend. -/
theorem remResult_eq {w : Nat} (dsrc src : BitVec w) (c : Bool) : remResult dsrc src c =
    let exact : Int := dsrc.toInt - dsrc.toInt.tdiv src.toInt * src.toInt
    if src.toInt = 0 then none
    else some
      { des := BitVec.ofInt w exact, c := c, v := false, z := decide (BitVec.ofInt w exact = 0)
        n := decide (exact < 0) } := by
  simp only [remResult, Int.tmod_def, Int.mul_comm src.toInt, beq_eq_decide]

/-- Settles O20: DVR is DIV with its operands exchanged. -/
theorem divideResultsAndFlags : Obligations.DivideResultsAndFlags := by
  have div {t : OpType} {mk : Mode t → Mode t → Instr}
      (he : HasShape integerDivide mk fun c a b => divResult b a c) :=
    dividesInteger_of_exec he fun c a b => divResult_eq b a c
  have dvr {t : OpType} {mk : Mode t → Mode t → Instr}
      (he : HasShape integerDivide mk fun c a b => divResult a b c) :=
    dividesInteger_of_exec he fun c a b => divResult_eq a b c
  have rem {t : OpType} {mk : Mode t → Mode t → Instr}
      (he : HasShape integerDivide mk fun c a b => remResult b a c) :=
    dividesInteger_of_exec he fun c a b => remResult_eq b a c
  exact ⟨⟨div fun _ _ _ => rfl, div fun _ _ _ => rfl, div fun _ _ _ => rfl, dvr fun _ _ _ => rfl,
    dvr fun _ _ _ => rfl, dvr fun _ _ _ => rfl⟩, rem fun _ _ _ => rfl, rem fun _ _ _ => rfl, rem fun _ _ _ => rfl⟩

/-! ### Decimal (40 R152, R153) -/

/-- The tens digit of a byte is its upper half. -/
theorem toNat_upper (x : Byte) : (x.extractLsb' 4 4).toNat = x.toNat / 16 := by
  have := x.isLt
  rw [BitVec.extractLsb'_toNat, Nat.shiftRight_eq_div_pow, Nat.mod_eq_of_lt (by omega)]

/-- The ones digit is its lower half. -/
theorem toNat_lower (x : Byte) : (x.extractLsb' 0 4).toNat = x.toNat % 16 := by
  rw [BitVec.extractLsb'_toNat, Nat.shiftRight_zero]

theorem bcdValid_iff (x : Byte) :
    bcdValid x = true ↔ (x.extractLsb' 4 4).toNat ≤ 9 ∧ (x.extractLsb' 0 4).toNat ≤ 9 := by
  rw [toNat_upper, toNat_lower, bcdValid, Bool.and_eq_true, decide_eq_true_iff, decide_eq_true_iff]

theorem bcdValue_eq (x : Byte) :
    (bcdValue x : Int) = 10 * (x.extractLsb' 4 4).toNat + (x.extractLsb' 0 4).toNat := by
  rw [toNat_upper, toNat_lower, bcdValue]
  push_cast
  rfl

/-- The byte of a number below 100 is 0 only for 0. -/
theorem bcdByte_eq_zero_iff {k : Nat} (h : k < 100) : bcdByte k = 0 ↔ k = 0 := by
  have zero : (0 : Byte).toNat = 0 := rfl
  rw [bcdByte, ← BitVec.toNat_inj, BitVec.toNat_ofNat, zero]
  omega

/-- The decimal result of a number below 100: its two digits, and Z when it is 0. -/
theorem decimalResult_bcdByte {k : Int} (h0 : 0 ≤ k) (h1 : k < 100) (c : Bool) : decimalResult (bcdByte k.toNat) c =
    { des := BitVec.ofInt 8 (k / 10 * 16 + k % 10), c := c, v := false, z := decide (k = 0), n := false } := by
  obtain ⟨n, rfl⟩ := Int.eq_ofNat_of_zero_le h0
  have digits : bcdByte n = BitVec.ofInt 8 ((n : Int) / 10 * 16 + n % 10) := by
    rw [bcdByte, ← BitVec.ofInt_natCast]
    push_cast
    rfl
  have zero : (bcdByte n == 0) = decide ((n : Int) = 0) := by
    rw [beq_eq_decide, decide_eq_decide, bcdByte_eq_zero_iff (by omega), Int.natCast_eq_zero]
  rw [Int.toNat_natCast, decimalResult, zero, digits]

/-- ADCD on valid digits: t is the exact sum (40 R152). -/
theorem adcdResult_of_valid {a b : Byte} (ha : bcdValid a = true) (hb : bcdValid b = true) (k : Nat) (c : Bool)
    {t : Int} (ht : bcdValue a + bcdValue b + c.toNat = t) : adcdResult k a b c =
      { des := BitVec.ofInt 8 (t % 100 / 10 * 16 + t % 100 % 10), c := decide (100 ≤ t), v := false
        z := decide (t % 100 = 0), n := false } := by
  have low : (bcdValue a + bcdValue b + c.toNat) % 100 = (t % 100).toNat := by omega
  have carry : decide (100 ≤ bcdValue a + bcdValue b + c.toNat) = decide (100 ≤ t) := decide_eq_decide.2 (by omega)
  rw [← decimalResult_bcdByte (by omega) (by omega), adcdResult, ha, hb, Bool.and_self, if_pos rfl, ← low, ← carry]

/-- SBBD on valid digits: t is the exact difference (40 R153). -/
theorem sbbdResult_of_valid {a b : Byte} (ha : bcdValid a = true) (hb : bcdValid b = true) (k : Nat) (c : Bool)
    {t : Int} (ht : (bcdValue b : Int) - bcdValue a - c.toNat = t) : sbbdResult k a b c =
      { des := BitVec.ofInt 8 (t % 100 / 10 * 16 + t % 100 % 10), c := decide (t < 0), v := false
        z := decide (t % 100 = 0), n := false } := by
  rw [← decimalResult_bcdByte (by omega) (by omega), sbbdResult, ha, hb, Bool.and_self, if_pos rfl, ht]

/-- What both give where a digit is not decimal: the byte and C are free, Z is that of the byte (93 U13; log 34). -/
def freeDecimalResult (k : Nat) : AluResult 8 :=
  { des := Config.freeDecimal k, c := Config.freeDecimalCarry k, v := false, z := decide (Config.freeDecimal k = 0)
    n := false }

theorem adcdResult_of_not_valid {a b : Byte} (h : ¬ (bcdValid a = true ∧ bcdValid b = true)) (k : Nat) (c : Bool) :
    adcdResult k a b c = freeDecimalResult k := by
  rw [adcdResult, if_neg (by rwa [Bool.and_eq_true]), decimalResult, beq_eq_decide, freeDecimalResult]

theorem sbbdResult_of_not_valid {a b : Byte} (h : ¬ (bcdValid a = true ∧ bcdValid b = true)) (k : Nat) (c : Bool) :
    sbbdResult k a b c = freeDecimalResult k := by
  rw [sbbdResult, if_neg (by rwa [Bool.and_eq_true]), decimalResult, beq_eq_decide, freeDecimalResult]

/-- An instruction that modifies a byte delivers whatever result its operation gives, which may draw free values. -/
theorem drawingModify_ends {mk : Mode .byte → Mode .byte → Instr} {op : Nat → Byte → Byte → Bool → AluResult 8}
    (he : ∀ src des s, exec (mk src des) s =
      integerModify (mk src des).length src des (fun c a b => op s.freeCount a b c) s)
    ⦃src des : Mode .byte⦄ ⦃s s2 s3 : State⦄ ⦃a b : Byte⦄ ⦃p : Place⦄ ⦃r : AluResult 8⦄
    (h : Modifies src des s a b p s2) (hr : op s.freeCount a b (Ps.c s.ps) = r)
    (hw : writePlace .byte p r.des s2 = .ok () s3) :
    EndsInteger (mk src des) s (s3.flagged r.c r.v r.z r.n) r.v
      (modeRegisters src ++ modeRegisters des ++ placeRegisters .byte p) (placeBytes .byte p) 0x1F
      (isStk src || isStk des) := by
  subst hr
  exact integerModify_ends (he src des s) h hw

/-- Settles O21: on valid digits the model's natural numbers are the digits of the exact value; on others it draws the
free values. -/
theorem decimalResultsAndFlags : Obligations.DecimalResultsAndFlags := by
  unfold Obligations.DecimalResultsAndFlags
  simp only [← bcdValid_iff, ← bcdValue_eq]
  have adcd := drawingModify_ends (mk := .adcd) (op := adcdResult) fun _ _ _ => rfl
  have sbbd := drawingModify_ends (mk := .sbbd) (op := sbbdResult) fun _ _ _ => rfl
  constructor <;> refine fun src des s s2 a b p h => ⟨fun ⟨ha, hb⟩ s3 hw => ?_, fun hv s3 hw => ?_⟩
  · have sum := adcdResult_of_valid ha hb s.freeCount (Ps.c s.ps) rfl
    exact (adcd h sum hw :)
  · exact (adcd h (adcdResult_of_not_valid hv s.freeCount (Ps.c s.ps)) hw :)
  · have difference := sbbdResult_of_valid ha hb s.freeCount (Ps.c s.ps) rfl
    exact (sbbd h difference hw :)
  · exact (sbbd h (sbbdResult_of_not_valid hv s.freeCount (Ps.c s.ps)) hw :)

end Sys2Proof.Machine
end

section
/-! SUPPORT. Logical, shift, rotate and find-first-one instructions (O22 to O24): the model's results in the terms of
the statements, and the instructions that deliver them (41 R180 to R189). -/

namespace Sys2Proof.Machine

/-! ### Logical (41 R180 to R184) -/

theorem logicResult_eq {w : Nat} (des : BitVec w) (c : Bool) : logicResult des c =
    { des := des, c := c, v := false, z := decide (des = 0), n := des.getLsbD (w - 1) } := by
  rw [logicResult, beq_eq_decide, BitVec.msb_eq_getLsbD_last]

/-- Settles O22: every one of them delivers the flags of its bits; NOT does not read its destination, and BIT stores
nothing. -/
theorem logicalResultsAndFlags : Obligations.LogicalResultsAndFlags := by
  have both {t : OpType} {mk : Mode t → Mode t → Instr} (op : BitVec t.bits → BitVec t.bits → BitVec t.bits)
      (he : HasShape integerModify mk fun c a b => logicResult (op a b) c) :=
    modifiesInteger_of_exec he fun c a b => logicResult_eq (op a b) c
  have not {t : OpType} {mk : Mode t → Mode t → Instr}
      (he : HasShape integerWrite mk fun c a => logicResult (~~~a) c) :=
    writesInteger_of_exec he fun c a => logicResult_eq (~~~a) c
  have bit {t : OpType} {mk : Mode t → Mode t → Instr}
      (he : HasShape integerCompare mk fun c a b => logicResult (a &&& b) c) :=
    comparesInteger_of_exec he fun c a b => logicResult_eq (a &&& b) c
  exact ⟨both (· &&& ·) fun _ _ _ => rfl, both (· &&& ·) fun _ _ _ => rfl, both (· &&& ·) fun _ _ _ => rfl,
    both (· ||| ·) fun _ _ _ => rfl, both (· ||| ·) fun _ _ _ => rfl, both (· ||| ·) fun _ _ _ => rfl,
    both (· ^^^ ·) fun _ _ _ => rfl, both (· ^^^ ·) fun _ _ _ => rfl, both (· ^^^ ·) fun _ _ _ => rfl,
    not fun _ _ _ => rfl, not fun _ _ _ => rfl, not fun _ _ _ => rfl,
    bit fun _ _ _ => rfl, bit fun _ _ _ => rfl, bit fun _ _ _ => rfl⟩

/-! ### Places of a shift (41 R185) -/

/-- The last place of a shift is the one that leaves the carry. -/
theorem shiftTimes_succ {w : Nat} (once : ShiftState w → ShiftState w) (k : Nat) (s : ShiftState w) :
    shiftTimes once (k + 1) s = once (shiftTimes once k s) := by
  induction k generalizing s with
  | zero => rfl
  | succ k ih => exact ih (once s)

/-- k places to the left: the last bit out is bit w - k, and 0 once all are out. -/
theorem shiftTimes_shiftLeftOnce {w : Nat} (x : BitVec w) (k : Nat) : shiftTimes shiftLeftOnce k (shiftStart x) =
    { x := x <<< k
      c := if k = 0 then x.getLsbD 0 else if w < k then false else x.getLsbD (w - k) } := by
  induction k with
  | zero => simp only [shiftTimes, shiftStart, BitVec.shiftLeft_zero, if_true]
  | succ k ih =>
    have out : (x <<< k).msb = if w < k + 1 then false else x.getLsbD (w - (k + 1)) := by
      rw [BitVec.msb_shiftLeft, BitVec.getMsbD, Nat.sub_sub, Nat.add_comm 1 k]
      by_cases inside : k < w
      · simp [inside, show ¬ w < k + 1 by omega]
      · simp [inside, show w < k + 1 by omega]
    rw [shiftTimes_succ, ih, shiftLeftOnce, out, BitVec.shiftLeft_add, if_neg k.succ_ne_zero]

/-- k places to the right, 0 entering: the last bit out is bit k - 1. -/
theorem shiftTimes_shiftRightOnce {w : Nat} (x : BitVec w) (k : Nat) : shiftTimes shiftRightOnce k (shiftStart x) =
    { x := x >>> k, c := x.getLsbD (k - 1) } := by
  induction k with
  | zero => simp only [shiftTimes, shiftStart, BitVec.ushiftRight_zero]
  | succ k ih =>
    rw [shiftTimes_succ, ih, shiftRightOnce, BitVec.shiftRight_add, BitVec.getLsbD_ushiftRight, Nat.add_zero,
      Nat.add_sub_cancel]

/-- k places to the right, the sign copied: the last bit out is bit k - 1, and the sign once all are out. -/
theorem shiftTimes_shiftSignedOnce {w : Nat} (x : BitVec w) (k : Nat) : shiftTimes shiftSignedOnce k (shiftStart x) =
    { x := x.sshiftRight k, c := if w < k then x.getLsbD (w - 1) else x.getLsbD (k - 1) } := by
  induction k with
  | zero => simp only [shiftTimes, shiftStart, BitVec.sshiftRight_zero, Nat.not_lt_zero, if_false]
  | succ k ih =>
    have out : (x.sshiftRight k).getLsbD 0 = if w < k + 1 then x.getLsbD (w - 1) else x.getLsbD (k + 1 - 1) := by
      rcases w with - | w
      · simp
      · rw [BitVec.getLsbD_sshiftRight, BitVec.msb_eq_getLsbD_last]
        by_cases inside : k < w + 1
        · simp [inside, show ¬ w + 1 < k + 1 by omega]
        · simp [inside, show w + 1 < k + 1 by omega]
    rw [shiftTimes_succ, ih, shiftSignedOnce, out, BitVec.sshiftRight_add]

/-! ### Shifts (41 R186, R187) -/

/-- SFT in closed form. -/
theorem sftResult_eq {w : Nat} (cnt : Byte) (x : BitVec w) : sftResult cnt x =
    let k := cnt.toInt.natAbs
    let des := if 0 < cnt.toInt then x <<< k else x >>> k
    let c :=
      if cnt.toInt = 0 then x.getLsbD 0
      else if w < k then false
      else if 0 < cnt.toInt then x.getLsbD (w - k)
      else x.getLsbD (k - 1)
    { des := des, c := c, v := false, z := decide (des = 0), n := des.getLsbD (w - 1) } := by
  simp only [sftResult, logicResult_eq]
  rcases lt_trichotomy cnt.toInt 0 with neg | zero | pos
  · have out : x.getLsbD (cnt.toInt.natAbs - 1) =
        if w < cnt.toInt.natAbs then false else x.getLsbD (cnt.toInt.natAbs - 1) := by
      split
      · exact BitVec.getLsbD_of_ge x _ (by omega)
      · rfl
    simp only [if_neg neg.not_gt, if_neg neg.ne, shiftTimes_shiftRightOnce, ← out]
  · simp [zero, shiftTimes_shiftRightOnce]
  · simp [pos, pos.ne', shiftTimes_shiftLeftOnce]

/-- A left shift multiplies by a power of two. -/
theorem ofInt_toInt_mul_two_pow {w : Nat} (x : BitVec w) (k : Nat) : BitVec.ofInt w (x.toInt * 2 ^ k) = x <<< k := by
  have power : BitVec.ofInt w (2 ^ k) = BitVec.twoPow w k := by
    apply BitVec.eq_of_toNat_eq
    rw [BitVec.toNat_twoPow, ← BitVec.toNat_ofNat, ← BitVec.ofInt_natCast]
    push_cast
    rfl
  rw [BitVec.ofInt_mul, BitVec.ofInt_toInt, power, BitVec.mul_twoPow_eq_shiftLeft]

/-- A right shift that copies the sign divides by a power of two, rounding toward minus infinity. -/
theorem toInt_sshiftRight_eq_ediv {w : Nat} (x : BitVec w) (k : Nat) : (x.sshiftRight k).toInt = x.toInt / 2 ^ k := by
  rw [BitVec.toInt_sshiftRight, Int.shiftRight_eq_div_pow]
  push_cast
  rfl

/-- An exact value that fits is stored as it is. -/
theorem arithResult_toInt {w : Nat} (x : BitVec w) (c : Bool) : arithResult w x.toInt c =
    { des := x, c := c, v := false, z := x == 0, n := x.msb } := by
  have fits : outOfRange w x.toInt = false := by
    have low := x.le_toInt
    have high := x.toInt_lt
    simp only [outOfRange, Bool.or_eq_false_iff, decide_eq_false_iff_not]
    omega
  rw [arithResult, fits, BitVec.ofInt_toInt, BitVec.msb_eq_toInt]

/-- SFA in closed form: the exact product or quotient goes through the general shape of an exact result. -/
theorem sfaResult_eq {w : Nat} (cnt : Byte) (x : BitVec w) : sfaResult cnt x =
    let k := cnt.toInt.natAbs
    let exact : Int := if 0 < cnt.toInt then x.toInt * 2 ^ k else x.toInt / 2 ^ k
    let c :=
      if cnt.toInt = 0 then x.getLsbD 0
      else if 0 < cnt.toInt then (if w < k then false else x.getLsbD (w - k))
      else if w < k then x.getLsbD (w - 1) else x.getLsbD (k - 1)
    arithResult w exact c := by
  rcases lt_or_ge 0 cnt.toInt with pos | nonpos
  · have sign : x.toInt * 2 ^ cnt.toInt.natAbs < 0 ↔ x.toInt < 0 := by
      rw [mul_neg_iff]
      have : (0 : Int) < 2 ^ cnt.toInt.natAbs := by positivity
      omega
    simp [sfaResult, arithResult, pos, pos.ne', shiftTimes_shiftLeftOnce, ofInt_toInt_mul_two_pow, sign]
  · have carry : (if cnt.toInt = 0 then x.getLsbD 0
        else if w < cnt.toInt.natAbs then x.getLsbD (w - 1) else x.getLsbD (cnt.toInt.natAbs - 1)) =
        if w < cnt.toInt.natAbs then x.getLsbD (w - 1) else x.getLsbD (cnt.toInt.natAbs - 1) := by
      by_cases zero : cnt.toInt = 0
      · simp [zero]
      · rw [if_neg zero]
    simp only [sfaResult, if_neg nonpos.not_gt, decide_eq_false nonpos.not_gt, Bool.false_and,
      shiftTimes_shiftSignedOnce, carry, ← toInt_sshiftRight_eq_ediv, arithResult_toInt]

/-! ### Rotations (41 R188) -/

/-- One place more to the left. -/
theorem rotateLeft_succ {w : Nat} (x : BitVec w) (k : Nat) : x.rotateLeft (k + 1) = (x.rotateLeft k).rotateLeft 1 := by
  apply BitVec.eq_of_getMsbD_eq
  intro i hi
  have place : (k + 1 + i) % w = (k + (1 + i) % w) % w := by rw [Nat.add_mod_mod, Nat.add_assoc]
  simp [BitVec.getMsbD_rotateLeft, hi, place, Nat.mod_lt _ (Nat.zero_lt_of_lt hi)]

/-- Bit i of a rotation to the right is bit r + i, counted around. -/
theorem getLsbD_rotateRight_mod {w : Nat} (x : BitVec w) {r i : Nat} (hi : i < w) :
    (x.rotateRight r).getLsbD i = x.getLsbD ((r + i) % w) := by
  have around : (r + i) % w = (r % w + i) % w := (Nat.mod_add_mod r w i).symm
  have hr : r % w < w := Nat.mod_lt r (Nat.zero_lt_of_lt hi)
  rw [BitVec.getLsbD_rotateRight, around]
  generalize r % w = d at hr ⊢
  by_cases inside : i < w - d
  · rw [decide_eq_true inside, cond_true, Nat.mod_eq_of_lt (by omega)]
  · have back : d + i - w = i - (w - d) := by omega
    rw [decide_eq_false inside, cond_false, decide_eq_true hi, Bool.true_and, Nat.mod_eq_sub_mod (by omega),
      Nat.mod_eq_of_lt (by omega), back]

/-- One place more to the right. -/
theorem rotateRight_succ {w : Nat} (x : BitVec w) (k : Nat) :
    x.rotateRight (k + 1) = (x.rotateRight k).rotateRight 1 := by
  apply BitVec.eq_of_getLsbD_eq
  intro i hi
  rw [getLsbD_rotateRight_mod _ hi, getLsbD_rotateRight_mod _ hi,
    getLsbD_rotateRight_mod _ (Nat.mod_lt _ (Nat.zero_lt_of_lt hi)), Nat.add_mod_mod, Nat.add_assoc]

/-- The bit that a rotation to the left carries around becomes the low one. -/
theorem getLsbD_zero_rotateLeft_one {w : Nat} (x : BitVec w) : (x.rotateLeft 1).getLsbD 0 = x.msb := by
  rcases w with - | w
  · simp [BitVec.msb_zero_length]
  · rw [BitVec.msb_eq_getMsbD_zero, BitVec.getLsbD_eq_getMsbD, BitVec.getMsbD_rotateLeft]
    simp [Nat.add_comm 1 w]

/-- The bit that a rotation to the right carries around becomes the high one. -/
theorem getLsbD_last_rotateRight_one {w : Nat} (x : BitVec w) : (x.rotateRight 1).getLsbD (w - 1) = x.getLsbD 0 := by
  rcases w with - | w
  · simp
  · rw [getLsbD_rotateRight_mod _ (by omega), Nat.add_sub_cancel, Nat.add_comm 1 w, Nat.mod_self]

/-- The value is unchanged by a rotation of no places. -/
theorem rotateLeft_zero {w : Nat} (x : BitVec w) : x.rotateLeft 0 = x := by
  apply BitVec.eq_of_getMsbD_eq
  intro i hi
  simp [BitVec.getMsbD_rotateLeft, hi, Nat.mod_eq_of_lt hi]

theorem rotateRight_zero {w : Nat} (x : BitVec w) : x.rotateRight 0 = x := by
  apply BitVec.eq_of_getLsbD_eq
  intro i hi
  rw [getLsbD_rotateRight_mod _ hi, Nat.zero_add, Nat.mod_eq_of_lt hi]

/-- k places around to the left: the last bit carried around is the low bit of the result. -/
theorem shiftTimes_rotateLeftOnce {w : Nat} (x : BitVec w) (k : Nat) : shiftTimes rotateLeftOnce k (shiftStart x) =
    { x := x.rotateLeft k, c := (x.rotateLeft k).getLsbD 0 } := by
  induction k with
  | zero => rw [rotateLeft_zero, shiftTimes, shiftStart]
  | succ k ih =>
    rw [shiftTimes_succ, ih, rotateLeftOnce, rotateLeft_succ x k, getLsbD_zero_rotateLeft_one]

/-- k places around to the right: the last bit carried around is the high bit of the result. -/
theorem shiftTimes_rotateRightOnce {w : Nat} (x : BitVec w) (k : Nat) : shiftTimes rotateRightOnce k (shiftStart x) =
    { x := x.rotateRight k
      c := if k = 0 then x.getLsbD 0 else (x.rotateRight k).getLsbD (w - 1) } := by
  induction k with
  | zero => rw [rotateRight_zero, shiftTimes, shiftStart, if_pos rfl]
  | succ k ih =>
    rw [shiftTimes_succ, ih, rotateRightOnce, rotateRight_succ x k, getLsbD_last_rotateRight_one, if_neg k.succ_ne_zero]

/-- ROT in closed form. -/
theorem rotResult_eq {w : Nat} (cnt : Byte) (x : BitVec w) : rotResult cnt x =
    let k := cnt.toInt.natAbs
    let des := if cnt.toInt < 0 then x.rotateLeft k else x.rotateRight k
    let c := if 0 < cnt.toInt then des.getLsbD (w - 1) else des.getLsbD 0
    { des := des, c := c, v := false, z := decide (des = 0), n := des.getLsbD (w - 1) } := by
  simp only [rotResult, logicResult_eq]
  rcases lt_trichotomy cnt.toInt 0 with neg | zero | pos
  · simp [neg, neg.not_gt, shiftTimes_rotateLeftOnce]
  · simp [zero, shiftTimes_rotateRightOnce, rotateRight_zero]
  · simp [pos, pos.not_gt, pos.ne', shiftTimes_rotateRightOnce]

/-- Settles O23: the count is the same for every width of the destination, and so is the closed form. -/
theorem shiftAndRotateResultsAndFlags : Obligations.ShiftAndRotateResultsAndFlags := by
  have sft {t : OpType} {mk : Mode .byte → Mode t → Instr}
      (he : HasShape integerModify mk fun _ a b => sftResult a b) :=
    modifiesInteger_of_exec he fun _ a b => sftResult_eq a b
  have sfa {t : OpType} {mk : Mode .byte → Mode t → Instr}
      (he : HasShape integerModify mk fun _ a b => sfaResult a b) :=
    modifiesInteger_of_exec he fun _ a b => (sfaResult_eq a b).trans (arithResult_eq _ _ _)
  have rot {t : OpType} {mk : Mode .byte → Mode t → Instr}
      (he : HasShape integerModify mk fun _ a b => rotResult a b) :=
    modifiesInteger_of_exec he fun _ a b => rotResult_eq a b
  exact ⟨⟨sft fun _ _ _ => rfl, sft fun _ _ _ => rfl, sft fun _ _ _ => rfl⟩,
    ⟨sfa fun _ _ _ => rfl, sfa fun _ _ _ => rfl, sfa fun _ _ _ => rfl⟩,
    rot fun _ _ _ => rfl, rot fun _ _ _ => rfl, rot fun _ _ _ => rfl⟩

/-! ### Find first one (41 R189) -/

/-- The scan of n bits from bit i on finds the first of their numbers whose bit is 1. -/
theorem firstOne_eq_find {w : Nat} (x : BitVec w) (i n : Nat) :
    firstOne x i n = ((List.range' i n).find? fun j => x.getLsbD j).getD (i + n) := by
  induction n generalizing i with
  | zero => rfl
  | succ n ih =>
    rw [firstOne, List.range'_succ, List.find?_cons, ih]
    cases x.getLsbD i with
    | true => rfl
    | false => rw [Nat.add_right_comm]; rfl

theorem ffoResult_eq {w : Nat} (x : BitVec w) (c : Bool) : ffoResult x c =
    { des := BitVec.ofNat 8 (((List.range w).find? fun i => x.getLsbD i).getD w)
      c := c, v := false, z := decide (x = 0), n := false } := by
  rw [ffoResult, beq_eq_decide, firstOne_eq_find, List.range_eq_range', Nat.zero_add]

/-- Settles O24: the scan starts at bit 0 and covers the width of the source. -/
theorem findFirstOneResultsAndFlags : Obligations.FindFirstOneResultsAndFlags := by
  have ffo {t : OpType} {mk : Mode t → Mode .byte → Instr}
      (he : HasShape integerWrite mk fun c a => ffoResult a c) :=
    writesInteger_of_exec he fun c a => ffoResult_eq a c
  exact ⟨ffo fun _ _ _ => rfl, ffo fun _ _ _ => rfl, ffo fun _ _ _ => rfl⟩

end Sys2Proof.Machine
end

section
/-! SUPPORT. Moves and conversions from integers (O25 to O28): the instructions of each shape, operand addresses, and
the model's results in the terms of the statements (42 R210 to R222). -/

namespace Sys2Proof.Machine

/-! ### Moves (42 R210, R211) -/

/-- An integer move leaves FR as it is. -/
theorem copies_of_moveInteger {t : OpType} {mk : Mode t → Mode t → Instr}
    (he : ∀ src des s, exec (mk src des) s = moveInteger (mk src des).length src des s) :
    Copies mk (fun s _ => s.fr) := by
  intro src des s s2 s3 a p h hw
  have same : { s2 with fr := s.fr } = s2 := by rw [← h.touches.fr]
  exact moveInteger_ends (he src des s) h ((congrArg (writePlace t p a) same).symm.trans hw)

/-- A floating-point move writes FR before its destination. -/
theorem copies_of_moveFloat {t : OpType} {mk : Mode t → Mode t → Instr}
    (he : ∀ src des s, exec (mk src des) s = moveFloat (mk src des).length src des s) :
    Copies mk (fun s a => faultOne (fpFormat t) s.freeCount a.toNat) :=
  fun src des s _ _ _ _ h hw => moveFloat_ends (he src des s) h hw

/-- Settles O25: each move is the shape of its kind. -/
theorem movesCopyAndKeepFlags : Obligations.MovesCopyAndKeepFlags :=
  ⟨copies_of_moveInteger fun _ _ _ => rfl, copies_of_moveInteger fun _ _ _ => rfl,
    copies_of_moveInteger fun _ _ _ => rfl, copies_of_moveFloat fun _ _ _ => rfl,
    copies_of_moveFloat fun _ _ _ => rfl⟩

/-! ### Operand addresses (42 R212; 30 R120, 44 R290) -/

/-- MOVA stores the operand address and goes on. -/
theorem mova_continues {src : Mode .address} {des : Mode .word} {s s1 s2 s3 : State} {a : Word} {p : Place}
    (ha : addressOf s.sp src s = .ok a s1) (ho : openWritten s.sp des s1 = .ok p s2)
    (hw : writePlace .word p a s2 = .ok () s3) :
    Continues (.mova src des) s { s3 with pc := s.following (Instr.mova src des).length }
        (modeRegisters src ++ modeRegisters des ++ placeRegisters .word p) (placeBytes .word p) 0 (isStk des) ∧
      s3.fr = s.fr := by
  have opened : State.Touches (modeRegisters src ++ modeRegisters des) (fun _ => false) (isStk des) s s2 :=
    ((addressOf_touches ha).trans (openWritten_touches ho)).mono (by simp) (by simp) (by simp)
  have touched := opened.write hw
  refine ⟨continues_of_finish (w := ()) ?_ ?_, touched.fr⟩
  · exact State.Touches.sameButAll (ps := s3.ps) (fr := s3.fr) (fr' := s.fr) touched (by rw [touched.ps])
  · simp only [exec, execMova, ha, ho, hw, Res.ok_bind, State.advance, touched.following]

/-- The modes whose operand address is not that of a place: it is relative to the instruction's own address (30 R120). -/
def isRelative : Mode .address → Bool
  | .literal _ | .register _ => true
  | _ => false

/-- The operand address of any other mode is that of its place. -/
theorem addressOf_of_located {sp0 : Word} {m : Mode .address} {s0 s s1 : State} {a : Word}
    (hf : fetchField .a m s0 = .ok () s) (hm : isRelative m = false) (h : locate .a sp0 m s = .ok (.mem a) s1) :
    addressOf sp0 m s0 = .ok a (stepRegister m s1) := by
  rw [addressOf, hf, Res.ok_bind]
  cases m with
  | literal n | register r => cases hm
  | _ => rw [h, Res.ok_bind]

/-- An illegal mode has none. -/
theorem addressOf_of_fetched_illegal {m : Mode .address} (hm : modeIllegal .a m = true) {s0 s : State}
    (hf : fetchField .a m s0 = .ok () s) (sp0 : Word) : addressOf sp0 m s0 = .exc 16 s :=
  addressOf_of_illegal hm ((fetchField_of_illegal hm s0).symm.trans hf) sp0

/-- Settles O26: a literal and a register are relative to the instruction; the other legal modes have the address of
their place, and step their register after it. -/
theorem moveAddressAndAddressOperands : Obligations.MoveAddressAndAddressOperands := by
  refine ⟨fun _ _ _ _ _ _ _ _ => mova_continues, fun s0 s sp0 n r v b h w => ?_⟩
  intro operand
  have place {m : Mode .address} {a : Word} {s1 : State} (hl : locate .a sp0 m s = .ok (.mem a) s1)
      (hm : isRelative m = false) : operand m (.ok a (stepRegister m s1)) :=
    fun hf => addressOf_of_located hf hm hl
  have illegal {m : Mode .address} (hm : modeIllegal .a m = true) : operand m (.exc 16 s) :=
    fun hf => addressOf_of_fetched_illegal hm hf sp0
  obtain ⟨regIndirect, byteOffReg, halfOffReg, wordOffReg, byteOffPc, halfOffPc, wordOffPc, byteOffSp, halfOffSp,
    wordOffSp, byteDirect, halfDirect, wordDirect, wordOffRegInd, wordOffPcInd, wordOffSpInd, wordIndirect⟩ :=
    effectiveAddresses .address .a s sp0 r b h w (by decide)
  refine ⟨fun hf => ?_, fun hf => ?_, place regIndirect rfl, place byteOffReg rfl, place halfOffReg rfl,
    place wordOffReg rfl, place byteOffPc rfl, place halfOffPc rfl, place wordOffPc rfl, place byteOffSp rfl,
    place halfOffSp rfl, place wordOffSp rfl, place byteDirect rfl, place halfDirect rfl, place wordDirect rfl,
    place (m := .autodec r) rfl rfl, place (m := .autoinc r) rfl rfl, place (m := .autoskip r) rfl rfl,
    fun p s1 hp => ?_, fun p s1 hp => place (wordOffRegInd p s1 hp) rfl, fun p s1 hp => place (wordOffPcInd p s1 hp) rfl,
    fun p s1 hp => place (wordOffSpInd p s1 hp) rfl, fun p s1 hp => place (wordIndirect p s1 hp) rfl,
    illegal rfl, illegal rfl, fun _ => illegal rfl⟩
  · rw [addressOf, hf, Res.ok_bind]
  · rw [addressOf, hf, Res.ok_bind]
  · rw [← stepRegister_autoincInd .address (readMem_sameCore hp)]
    exact place (locate_autoincInd (by decide) sp0 hp) rfl

/-! ### Conversions between integers (42 R214 to R217) -/

/-- An instruction whose meaning is the shape that converts to an integer delivers any result equal to that of the
shape. -/
theorem convertsInteger_of_exec {t u : OpType} {mk : Mode t → Mode u → Instr}
    {op res : Bool → BitVec t.bits → AluResult u.bits} (he : HasShape integerConvert mk op)
    (hr : ∀ c a, op c a = res c a) : ConvertsInteger mk res := by
  obtain rfl : op = res := by
    funext c a
    exact hr c a
  exact fun src des s _ _ _ _ h hw => integerConvert_ends (he src des s) h hw

/-- The low part of a Word is the low part of its value. -/
theorem narrowResult_eq {w : Nat} (hw : w ≤ 32) (x : Word) (c : Bool) : narrowResult w x c =
    { des := x.setWidth w
      c := c
      v := decide (x.toInt < -2 ^ (w - 1) ∨ 2 ^ (w - 1) - 1 < x.toInt)
      z := decide (x.setWidth w = 0)
      n := decide (x.toInt < 0) } := by
  have low : BitVec.ofInt w x.toInt = x.setWidth w := BitVec.signExtend_eq_setWidth_of_le x hw
  rw [narrowResult, arithResult_eq, low]

/-- An integer is 0 when its bits are. -/
theorem toInt_eq_zero_iff {w : Nat} {x : BitVec w} : x.toInt = 0 ↔ x = 0 := by
  rw [← BitVec.toInt_zero (w := w), BitVec.toInt_inj, BitVec.ofNat_eq_ofNat]

/-- The sign extension of an integer of at most 32 bits is its own value, so that it always fits. -/
theorem widenResult_eq {w : Nat} (hw : w ≤ 32) (x : BitVec w) (c : Bool) : widenResult x c =
    { des := x.signExtend 32, c := c, v := false, z := decide (x = 0), n := x.getLsbD (w - 1) } := by
  have same : (x.signExtend 32).toInt = x.toInt := BitVec.toInt_signExtend_of_le hw
  have zero : (x.signExtend 32 == 0) = decide (x = 0) := by
    rw [beq_eq_decide, decide_eq_decide, ← toInt_eq_zero_iff, same, toInt_eq_zero_iff]
  have sign : (x.signExtend 32).msb = x.getLsbD (w - 1) := by
    rw [BitVec.msb_eq_toInt, same, ← BitVec.msb_eq_toInt, BitVec.msb_eq_getLsbD_last]
  rw [widenResult, ← same, arithResult_toInt, zero, sign]

/-- Settles O27: both kinds go through the general shape of an exact result, the value of the source. -/
theorem integerConversions : Obligations.IntegerConversions := by
  have widen {t : OpType} {mk : Mode t → Mode .word → Instr} (ht : t.bits ≤ 32)
      (he : HasShape integerConvert mk fun c a => widenResult a c) :=
    convertsInteger_of_exec he fun c a => widenResult_eq ht a c
  have narrow {t : OpType} {mk : Mode .word → Mode t → Instr} (ht : t.bits ≤ 32)
      (he : HasShape integerConvert mk fun c a => narrowResult t.bits a c) :=
    convertsInteger_of_exec he fun c a => narrowResult_eq ht a c
  exact ⟨widen (by decide) fun _ _ _ => rfl, widen (by decide) fun _ _ _ => rfl, narrow (by decide) fun _ _ _ => rfl,
    narrow (by decide) fun _ _ _ => rfl⟩

/-! ### Conversions of integers to floating point (42 R218 to R222) -/

/-- The result for an integer that the significand holds: its pattern, its sign and whether it is 0. -/
theorem FpFormat.ofInt_eq_value {f : FpFormat} {n : Int} (hn : n.natAbs < 2 ^ (f.fracBits + 1))
    (hf : f.HoldsIntegers) : f.ofInt n =
      .value (f.ofInt n).bits (decide (n < 0)) (decide (n = 0)) false false false := by
  rw [ofInt]
  split
  case isTrue h0 => simp [h0, zeroOf, FpResult.bits]
  case isFalse h0 => rw [round_nat (Int.natAbs_ne_zero.2 h0) hn hf, FpResult.bits, decide_eq_false h0]

/-- The width of a format is that of its operands. -/
theorem fpFormat_width {t : OpType} (ht : t.isFp = true) : 1 + (fpFormat t).expBits + (fpFormat t).fracBits = t.bits := by
  cases t with
  | real | long => rfl
  | _ => cases ht

/-- The magnitude of an integer is at most that of the lowest one of its width. -/
theorem natAbs_toInt_lt {w n : Nat} (h : w ≤ n) (x : BitVec w) : x.toInt.natAbs < 2 ^ n := by
  have low := x.le_two_mul_toInt
  have high := x.two_mul_toInt_lt
  have wide : 2 ^ w ≤ 2 ^ n := Nat.pow_le_pow_right (by decide) h
  have pos : 0 < 2 ^ w := Nat.two_pow_pos w
  zify at low high wide pos ⊢
  rw [abs_lt]
  omega

/-- A conversion of an integer that the significand holds stores its exact value and raises nothing. -/
theorem floatFromInteger_exact {t u : OpType} {i : Instr} {src : Mode t} {des : Mode u} {s s2 : State}
    {a : BitVec t.bits} {p : Place} (hu : u.isFp = true) (ht : t.bits ≤ (fpFormat u).fracBits + 1)
    (he : exec i s = floatFromInteger i.length src des s) (h : Writes src des s a p s2) :
    ∃ x : BitVec u.bits, (fpFormat u).isFinite x.toNat = true ∧
      (fpFormat u).val x.toNat = (a.toInt : Rat) ∧ (a = 0 → x = 0) ∧
      ∀ s3, writePlace u p x { s2 with fr := Config.freeFaultBits s.freeCount } = .ok () s3 →
        Continues i s
          { s3 with
            ps := Ps.withFp
              (Ps.withCond s.ps (decide (a.toInt < 0)) false (decide (a = 0)) (decide (a.toInt < 0)) false)
              false false false false false
            pc := s.following i.length }
          (modeRegisters src ++ modeRegisters des ++ placeRegisters u p) (placeBytes u p) 0x3FF
          (isStk src || isStk des) := by
  have small := natAbs_toInt_lt ht a
  have zero : decide (a.toInt = 0) = decide (a = 0) := decide_eq_decide.2 toInt_eq_zero_iff
  obtain ⟨lt, finite, value, plusZero⟩ := FpFormat.ofInt_exact small (fpFormat_holdsIntegers u)
  have ends := floatFromInteger_ends he h
  rw [FpFormat.ofInt_eq_value small (fpFormat_holdsIntegers u), zero] at ends
  have bits : (BitVec.ofNat u.bits ((fpFormat u).ofInt a.toInt).bits).toNat = ((fpFormat u).ofInt a.toInt).bits := by
    rw [BitVec.toNat_ofNat, Nat.mod_eq_of_lt (by rwa [fpFormat_width hu] at lt)]
  refine ⟨BitVec.ofNat u.bits ((fpFormat u).ofInt a.toInt).bits, by rwa [bits], by rwa [bits], fun h0 => ?_,
    fun s3 hw => ?_⟩
  · rw [plusZero (toInt_eq_zero_iff.2 h0)]
    rfl
  · obtain ⟨-, -, -, goesOn⟩ := ends s3 hw
    exact (goesOn rfl rfl rfl).1

/-- Settles O28: the integers have at most 32 bits for a Longreal and at most 16 for a Real. -/
theorem integerToFloatIsExact : Obligations.IntegerToFloatIsExact := by
  refine ⟨?_, ?_, ?_, ?_, ?_⟩ <;> exact fun _ _ _ _ _ _ => floatFromInteger_exact rfl (by decide) rfl

end Sys2Proof.Machine
end

section
/-! SUPPORT. Rounding (O29; 43 R244, R248): the significand and the exponent that `round` finds, and why no other number
of the format lies nearer. -/

namespace Sys2Proof.Machine

/-! ### Powers of two and the binary logarithm (43 R244) -/

/-- An integer power of two, as its numerator over its denominator. -/
theorem two_pow_toNat_div (l : Int) : (2 : Rat) ^ l.toNat / 2 ^ (-l).toNat = 2 ^ l := by
  rw [← zpow_natCast, ← zpow_natCast, ← zpow_sub₀ two_ne_zero, Int.toNat_sub_toNat_neg]

/-- Comparing cross products compares a quotient with a power of two. -/
theorem two_zpow_le_div_iff {num den : Nat} (hd : 0 < den) (l : Int) :
    (2 : Rat) ^ l ≤ num / den ↔ den * 2 ^ l.toNat ≤ num * 2 ^ (-l).toNat := by
  have hd' : (0 : Rat) < den := Nat.cast_pos.2 hd
  rw [← two_pow_toNat_div, div_le_div_iff₀ (by positivity) hd', mul_comm, ← Nat.cast_ofNat (R := Rat)]
  norm_cast

/-- The power of two below a number and the one above it. -/
theorem two_zpow_log2_le {n : Nat} (h : n ≠ 0) : (2 : Rat) ^ (n.log2 : Int) ≤ n ∧ (n : Rat) < 2 ^ ((n.log2 : Int) + 1) := by
  constructor
  · rw [zpow_natCast]
    exact_mod_cast Nat.log2_self_le h
  · have := Nat.lt_log2_self (n := n)
    exact_mod_cast this

/-- The quotient lies between two powers of two, the lower of which is that of the binary logarithm. -/
theorem floorLog2_spec {num den : Nat} (hn : 0 < num) (hd : 0 < den) :
    (2 : Rat) ^ floorLog2 num den ≤ num / den ∧ (num : Rat) / den < 2 ^ (floorLog2 num den + 1) := by
  obtain ⟨nl, nh⟩ := two_zpow_log2_le hn.ne'
  obtain ⟨dl, dh⟩ := two_zpow_log2_le hd.ne'
  have hd' : (0 : Rat) < den := Nat.cast_pos.2 hd
  have below : (2 : Rat) ^ ((num.log2 : Int) - den.log2 - 1) ≤ num / den := by
    rw [le_div_iff₀ hd']
    calc (2 : Rat) ^ ((num.log2 : Int) - den.log2 - 1) * den
        ≤ 2 ^ ((num.log2 : Int) - den.log2 - 1) * 2 ^ ((den.log2 : Int) + 1) := by gcongr
      _ = 2 ^ (num.log2 : Int) := by rw [← zpow_add₀ two_ne_zero]; congr 1; ring
      _ ≤ num := nl
  have above : (num : Rat) / den < 2 ^ ((num.log2 : Int) - den.log2 + 1) := by
    rw [div_lt_iff₀ hd']
    calc (num : Rat) < 2 ^ ((num.log2 : Int) + 1) := nh
      _ = 2 ^ ((num.log2 : Int) - den.log2 + 1) * 2 ^ (den.log2 : Int) := by
        rw [← zpow_add₀ two_ne_zero]; congr 1; ring
      _ ≤ _ := by gcongr
  rw [floorLog2]
  split
  case isTrue h => exact ⟨(two_zpow_le_div_iff hd _).2 h, above⟩
  case isFalse h =>
    rw [sub_add_cancel]
    exact ⟨below, not_le.1 (mt (two_zpow_le_div_iff hd _).1 h)⟩

/-! ### The numbers of a format (43 R244) -/

section Grid

variable {f : FpFormat} {m m' : Nat} {e e' : Int}

theorem FpFormat.gridValue_le_gridValue (h : m ≤ m') : f.gridValue m e ≤ f.gridValue m' e := by
  have : (m : Rat) ≤ m' := Nat.cast_le.2 h
  simp only [gridValue]
  gcongr

/-- The next significand is one unit of the exponent above. -/
theorem FpFormat.gridValue_succ : f.gridValue (m + 1) e = f.gridValue m e + 2 ^ (e - f.fracBits) := by
  rw [gridValue, gridValue, Nat.cast_add_one, add_mul, one_mul]

/-- The middle of the gap is half of it above its lower end. -/
theorem FpFormat.middle_eq : (f.gridValue m e + f.gridValue (m + 1) e) / 2 =
    f.gridValue m e + 1 / 2 * 2 ^ (e - f.fracBits) := by
  rw [gridValue_succ]
  ring

/-- A number of the format with the exponent e lies between two powers of two. -/
theorem FpFormat.gridValue_bounds (h : f.isSignificand m) : (2 : Rat) ^ e ≤ f.gridValue m e ∧
    f.gridValue m e < 2 ^ (e + 1) := by
  obtain ⟨low, high⟩ := h
  have low' : (2 : Rat) ^ (f.fracBits : Int) ≤ m := by exact_mod_cast low
  have high' : (m : Rat) < 2 ^ ((f.fracBits : Int) + 1) := by exact_mod_cast high
  have split (k : Int) : (2 : Rat) ^ (e + k) = 2 ^ ((f.fracBits : Int) + k) * 2 ^ (e - f.fracBits) := by
    rw [← zpow_add₀ two_ne_zero]
    congr 1
    ring
  rw [gridValue]
  constructor
  · rw [← add_zero e, split 0, add_zero, add_zero]
    gcongr
  · rw [split 1]
    gcongr

/-- Between a number of the format and the one with the next significand there is no other. -/
theorem FpFormat.gridValue_gap (h : f.isSignificand m) (h' : f.isSignificand m') :
    f.gridValue m' e' ≤ f.gridValue m e ∨ f.gridValue (m + 1) e ≤ f.gridValue m' e' := by
  rcases lt_or_ge e' e with lt | ge
  · left
    calc f.gridValue m' e' ≤ 2 ^ (e' + 1) := (gridValue_bounds h').2.le
      _ ≤ 2 ^ e := zpow_le_zpow_right₀ one_le_two lt
      _ ≤ f.gridValue m e := (gridValue_bounds h).1
  · obtain ⟨k, rfl⟩ := Int.le.dest ge
    have multiple : f.gridValue m' (e + k) = f.gridValue (m' * 2 ^ k) e := by
      rw [gridValue, gridValue, Nat.cast_mul, mul_assoc, Nat.cast_pow, Nat.cast_ofNat, ← zpow_natCast,
        ← zpow_add₀ two_ne_zero]
      congr 2
      ring
    rw [multiple]
    exact (Nat.lt_or_ge m (m' * 2 ^ k)).symm.imp gridValue_le_gridValue gridValue_le_gridValue

end Grid

/-! ### The carry of a rounded significand (43 R244) -/

/-- A significand and an exponent where rounding away from zero may have given one bit too many. -/
def FpFormat.carried (f : FpFormat) (m : Nat) (e : Int) : Nat × Int :=
  if m = 2 ^ (f.fracBits + 1) then (2 ^ f.fracBits, e + 1) else (m, e)

section Carry

variable {f : FpFormat} {m : Nat} {e : Int}

theorem FpFormat.gridValue_carried : f.gridValue (f.carried m e).1 (f.carried m e).2 = f.gridValue m e := by
  rw [carried]
  split
  case isTrue h =>
    rw [h, gridValue, gridValue, Nat.cast_pow, Nat.cast_pow, Nat.cast_ofNat, ← zpow_natCast, ← zpow_natCast,
      ← zpow_add₀ two_ne_zero, ← zpow_add₀ two_ne_zero]
    congr 1
    push_cast
    ring
  case isFalse => rfl

theorem FpFormat.isSignificand_carried (low : 2 ^ f.fracBits ≤ m) (high : m ≤ 2 ^ (f.fracBits + 1)) :
    f.isSignificand (f.carried m e).1 := by
  rw [carried]
  split
  case isTrue => exact ⟨le_rfl, Nat.pow_lt_pow_succ one_lt_two⟩
  case isFalse h => exact ⟨low, lt_of_le_of_ne high h⟩

theorem FpFormat.carried_even (hf : f.fracBits ≠ 0) (h : m % 2 = 0) : (f.carried m e).1 % 2 = 0 := by
  rw [carried]
  split
  case isTrue => exact Nat.mod_eq_zero_of_dvd (dvd_pow_self 2 hf)
  case isFalse => exact h

end Carry

/-! ### Which way to round (43 R244) -/

/-- Whether PS.RC rounds a number of this sign away from zero. -/
def roundsAway (rc : BitVec 2) (s : Bool) : Prop := (rc = 1 ∧ s = false) ∨ (rc = 2 ∧ s = true)

theorem roundsUp_of_nearest (s : Bool) (m rem den : Nat) :
    roundsUp 0 s m rem den = true ↔ den < 2 * rem ∨ 2 * rem = den ∧ m % 2 = 1 := by
  simp [roundsUp]

theorem roundsUp_of_roundsAway {rc : BitVec 2} {s : Bool} (h : roundsAway rc s) (m rem den : Nat) :
    roundsUp rc s m rem den = true ↔ rem ≠ 0 := by
  rcases h with ⟨rfl, rfl⟩ | ⟨rfl, rfl⟩ <;> simp [roundsUp]

theorem roundsUp_of_toward_zero {rc : BitVec 2} {s : Bool} (h0 : rc ≠ 0) (h : ¬ roundsAway rc s) (m rem den : Nat) :
    roundsUp rc s m rem den = false := by
  have others : ∀ rc : BitVec 2, rc ≠ 0 → rc = 1 ∨ rc = 2 ∨ rc = 3 := by decide
  rcases others rc h0 with rfl | rfl | rfl <;> cases s <;> simp [roundsAway, roundsUp] at h ⊢

section Nearest

variable {low high g x : Rat} (gap : g ≤ low ∨ high ≤ g)

include gap

/-- In the lower half of a gap its lower end is the nearest, and another is as near only from the middle. -/
theorem nearest_of_le_middle (hl : low ≤ x) (mid : x ≤ (low + high) / 2) :
    (low < g → x ≤ (low + g) / 2) ∧ (g < low → (low + g) / 2 ≤ x) ∧
      (low ≠ g → (low + g) / 2 ≤ x → x ≤ (low + g) / 2 → (low + high) / 2 ≤ x) := by
  rcases gap with below | above
  · exact ⟨fun _ => by linarith, fun _ => by linarith, fun ne _ _ => by
      have := lt_of_le_of_ne below ne.symm
      linarith⟩
  · exact ⟨fun _ => by linarith, fun _ => by linarith, fun _ _ _ => by linarith⟩

/-- In the upper half it is the upper end. -/
theorem nearest_of_middle_le (hh : x < high) (mid : (low + high) / 2 ≤ x) :
    (high < g → x ≤ (high + g) / 2) ∧ (g < high → (high + g) / 2 ≤ x) ∧
      (high ≠ g → (high + g) / 2 ≤ x → x ≤ (high + g) / 2 → x ≤ (low + high) / 2) := by
  rcases gap with below | above
  · exact ⟨fun _ => by linarith, fun _ => by linarith, fun _ _ _ => by linarith⟩
  · exact ⟨fun _ => by linarith, fun _ => by linarith, fun ne _ _ => by
      have := lt_of_le_of_ne above ne
      linarith⟩

end Nearest

/-! ### A quotient rounded to a significand (43 R244) -/

/-- The quotient n / d rounded to an integer. -/
def roundedQuotient (rc : BitVec 2) (s : Bool) (n d : Nat) : Nat :=
  if roundsUp rc s (n / d) (n % d) d then n / d + 1 else n / d

section Quotient

variable {f : FpFormat} {n d : Nat} (hd : 0 < d) {e : Int} {x : Rat} (hx : x = n / d * 2 ^ (e - f.fracBits))

include hd hx

/-- What is above the truncated quotient is the remainder over the divisor. -/
theorem FpFormat.eq_gridValue_add : x = f.gridValue (n / d) e + (n % d : Nat) / d * 2 ^ (e - f.fracBits) := by
  have hd' : (d : Rat) ≠ 0 := (Nat.cast_pos.2 hd).ne'
  have division : (n : Rat) = d * (n / d : Nat) + (n % d : Nat) := by exact_mod_cast (Nat.div_add_mod n d).symm
  rw [hx, gridValue, ← add_mul, division, add_div, mul_div_cancel_left₀ _ hd']

theorem FpFormat.gridValue_div_le : f.gridValue (n / d) e ≤ x := by
  rw [eq_gridValue_add hd hx]
  exact le_add_of_nonneg_right (by positivity)

theorem FpFormat.lt_gridValue_div_add_one : x < f.gridValue (n / d + 1) e := by
  have hd' : (0 : Rat) < d := Nat.cast_pos.2 hd
  have part : ((n % d : Nat) : Rat) / d < 1 := (div_lt_one hd').2 (Nat.cast_lt.2 (Nat.mod_lt n hd))
  rw [eq_gridValue_add hd hx, gridValue_succ]
  exact add_lt_add_right (mul_lt_of_lt_one_left (by positivity) part) _

theorem FpFormat.le_gridValue_div_iff : x ≤ f.gridValue (n / d) e ↔ n % d = 0 := by
  have hd' : (0 : Rat) < d := Nat.cast_pos.2 hd
  rw [eq_gridValue_add hd hx, add_le_iff_nonpos_right, ← zero_mul ((2 : Rat) ^ (e - f.fracBits)),
    mul_le_mul_iff_left₀ (by positivity), div_le_iff₀ hd', zero_mul, Nat.cast_nonpos]

theorem FpFormat.le_middle_iff :
    x ≤ (f.gridValue (n / d) e + f.gridValue (n / d + 1) e) / 2 ↔ 2 * (n % d) ≤ d := by
  have hd' : (0 : Rat) < d := Nat.cast_pos.2 hd
  rw [eq_gridValue_add hd hx, middle_eq, add_le_add_iff_left, mul_le_mul_iff_left₀ (by positivity),
    div_le_div_iff₀ hd' two_pos, one_mul, mul_comm]
  exact_mod_cast Iff.rfl

theorem FpFormat.middle_le_iff :
    (f.gridValue (n / d) e + f.gridValue (n / d + 1) e) / 2 ≤ x ↔ d ≤ 2 * (n % d) := by
  have hd' : (0 : Rat) < d := Nat.cast_pos.2 hd
  rw [eq_gridValue_add hd hx, middle_eq, add_le_add_iff_left, mul_le_mul_iff_left₀ (by positivity),
    div_le_div_iff₀ two_pos hd', one_mul, mul_comm]
  exact_mod_cast Iff.rfl

end Quotient

section Rounding

variable {f : FpFormat} (hf : f.fracBits ≠ 0) {n d : Nat} (hd : 0 < d) (hq : f.isSignificand (n / d)) {e : Int} {x : Rat}
  (hx : x = n / d * 2 ^ (e - f.fracBits))

include hd hx

/-- The rounded quotient is the exact number only where nothing is left over. -/
theorem FpFormat.roundedQuotient_exact_iff (rc : BitVec 2) (s : Bool) :
    n % d = 0 ↔ f.gridValue (roundedQuotient rc s n d) e ≤ x ∧ x ≤ f.gridValue (roundedQuotient rc s n d) e := by
  rw [roundedQuotient]
  split
  case isTrue up =>
    have rest : n % d ≠ 0 := fun h => by
      rw [h, roundsUp_zero rc s _ hd] at up
      cases up
    exact iff_of_false rest fun h => h.1.not_gt (lt_gridValue_div_add_one hd hx)
  case isFalse => exact (le_gridValue_div_iff hd hx).symm.trans (and_iff_right (gridValue_div_le hd hx)).symm

include hf hq

/-- Rounding a quotient that is a significand, and carrying, gives the number that PS.RC asks for (43 R244). -/
theorem FpFormat.rounds_roundedQuotient (rc : BitVec 2) (s : Bool) :
    f.Rounds rc s (· ≤ x) (x ≤ ·) (f.carried (roundedQuotient rc s n d) e).1
      (f.carried (roundedQuotient rc s n d) e).2 := by
  have low := gridValue_div_le hd hx
  have high := lt_gridValue_div_add_one hd hx
  refine ⟨?_, fun m' e' h' => ?_⟩
  · obtain ⟨atLeast, below⟩ := hq
    rw [roundedQuotient]
    split
    · exact isSignificand_carried (atLeast.trans (Nat.le_succ _)) below
    · exact isSignificand_carried atLeast below.le
  have gap := gridValue_gap (e := e) (e' := e') hq h'
  rw [gridValue_carried]
  intro r g
  split
  case isTrue nearest =>
    subst nearest
    by_cases up : roundsUp 0 s (n / d) (n % d) d = true
    · have q_eq : roundedQuotient 0 s n d = n / d + 1 := if_pos up
      rw [roundsUp_of_nearest] at up
      obtain ⟨above, below, tie⟩ := nearest_of_middle_le gap high ((middle_le_iff hd hx).2 (by omega))
      simp only [r, q_eq]
      refine ⟨above, below, fun ne le ge => carried_even hf ?_⟩
      have := (le_middle_iff hd hx).1 (tie ne le ge)
      omega
    · have q_eq : roundedQuotient 0 s n d = n / d := if_neg up
      rw [roundsUp_of_nearest] at up
      obtain ⟨above, below, tie⟩ := nearest_of_le_middle gap low ((le_middle_iff hd hx).2 (by omega))
      simp only [r, q_eq]
      refine ⟨above, below, fun ne le ge => carried_even hf ?_⟩
      have := (middle_le_iff hd hx).1 (tie ne le ge)
      omega
  case isFalse directed =>
    split
    case isTrue away =>
      have up := roundsUp_of_roundsAway away (n / d) (n % d) d
      by_cases rest : n % d = 0
      · have q_eq : roundedQuotient rc s n d = n / d := if_neg (mt up.1 (not_not.2 rest))
        simp only [r, q_eq]
        exact ⟨(le_gridValue_div_iff hd hx).2 rest, low.trans⟩
      · have q_eq : roundedQuotient rc s n d = n / d + 1 := if_pos (up.2 rest)
        simp only [r, q_eq]
        exact ⟨high.le, fun ge => gap.resolve_left fun h => rest ((le_gridValue_div_iff hd hx).1 (ge.trans h))⟩
    case isFalse toward =>
      have r_eq : r = f.gridValue (n / d) e := by
        simp only [r, roundedQuotient, roundsUp_of_toward_zero directed toward, Bool.false_eq_true, if_false]
      rw [r_eq]
      exact ⟨low, fun le => gap.resolve_right fun h => (h.trans le).not_gt high⟩

end Rounding

/-! ### The result of a rounding (43 R248) -/

/-- The result for a rounded significand and exponent, with Overflow and Underflow judged on the exponent. -/
def FpFormat.resultOf (f : FpFormat) (k : Nat) (s : Bool) (m : Nat) (e : Int) (ix : Bool) : FpResult :=
  let ovf := decide ((f.bias : Int) < e)
  let uf := decide (e < 1 - (f.bias : Int))
  let field : Int := if ovf then e else if uf then e + 2 * f.bias else e + f.bias
  let stored := if 1 ≤ field ∧ field ≤ 2 * f.bias then field.toNat
    else (Config.freeExponent k).toNat % 2 ^ f.expBits
  .value (f.pack s stored (m - 2 ^ f.fracBits)) s false ix uf ovf

/-- What is delivered is the result of a rounding. -/
theorem FpFormat.delivers_iff {f : FpFormat} {rc : BitVec 2} {k : Nat} {s : Bool} {le ge : Rat → Prop} {r : FpResult} :
    f.Delivers rc k s le ge r ↔ ∃ m e ix, f.Rounds rc s le ge m e ∧
      (ix = false ↔ le (f.gridValue m e) ∧ ge (f.gridValue m e)) ∧ r = f.resultOf k s m e ix := Iff.rfl

/-- The places by which a quotient is shifted to become a significand. -/
def FpFormat.shiftOf (f : FpFormat) (num den : Nat) : Int := f.fracBits - floorLog2 num den

/-- `round` rounds the shifted quotient, carries, and delivers the result. -/
theorem FpFormat.round_eq (f : FpFormat) (rc : BitVec 2) (k : Nat) (s : Bool) (num den : Nat) (e : Int) :
    let n := num * 2 ^ (f.shiftOf num den).toNat
    let d := den * 2 ^ (-f.shiftOf num den).toNat
    let c := f.carried (roundedQuotient rc s n d) (floorLog2 num den + e)
    f.round rc k s num den e = f.resultOf k s c.1 c.2 (decide (n % d ≠ 0)) := by
  intro n d c
  have unfolded : f.round rc k s num den e =
      let carry := roundedQuotient rc s n d == 2 ^ (f.fracBits + 1)
      f.resultOf k s (if carry then 2 ^ f.fracBits else roundedQuotient rc s n d)
        (if carry then floorLog2 num den + e + 1 else floorLog2 num den + e) (decide (n % d ≠ 0)) := rfl
  simp only [unfolded, c, carried, beq_iff_eq]
  split <;> rfl

/-- The shifted quotient is a significand, and the number is that quotient at the exponent of the logarithm. -/
theorem FpFormat.shifted_quotient (f : FpFormat) {num den : Nat} (hn : 0 < num) (hd : 0 < den) :
    let n := num * 2 ^ (f.shiftOf num den).toNat
    let d := den * 2 ^ (-f.shiftOf num den).toNat
    0 < d ∧ (n : Rat) / d = num / den * 2 ^ f.shiftOf num den ∧ f.isSignificand (n / d) := by
  intro n d
  have hd' : 0 < d := Nat.mul_pos hd (Nat.two_pow_pos _)
  have pos : (0 : Rat) < d := Nat.cast_pos.2 hd'
  have value : (n : Rat) / d = num / den * 2 ^ f.shiftOf num den := by
    rw [← two_pow_toNat_div, div_mul_div_comm]
    push_cast [n, d]
    rfl
  obtain ⟨low, high⟩ := floorLog2_spec hn hd
  have scaled (k : Int) : (2 : Rat) ^ ((f.fracBits : Int) + k) = 2 ^ (floorLog2 num den + k) * 2 ^ f.shiftOf num den := by
    rw [← zpow_add₀ two_ne_zero, shiftOf]
    congr 1
    ring
  refine ⟨hd', value, (Nat.le_div_iff_mul_le hd').2 ?_, (Nat.div_lt_iff_lt_mul hd').2 ?_⟩
  · have : (2 : Rat) ^ ((f.fracBits : Int) + 0) ≤ n / d := by
      rw [value, scaled, add_zero]
      gcongr
    rw [le_div_iff₀ pos, add_zero] at this
    exact_mod_cast this
  · have : (n : Rat) / d < (2 : Rat) ^ ((f.fracBits : Int) + 1) := by
      rw [value, scaled]
      gcongr
    rw [div_lt_iff₀ pos] at this
    exact_mod_cast this

/-- Rounding is correct for every positive number (43 R244, R248). -/
theorem FpFormat.round_delivers {f : FpFormat} (hf : f.fracBits ≠ 0) (rc : BitVec 2) (k : Nat) (s : Bool)
    {num den : Nat} (hn : 0 < num) (hd : 0 < den) (e : Int) :
    f.DeliversValue rc k s ((num : Rat) / den * 2 ^ e) (f.round rc k s num den e) := by
  obtain ⟨pos, value, significand⟩ := f.shifted_quotient hn hd
  have hx : (num : Rat) / den * 2 ^ e =
      (num * 2 ^ (f.shiftOf num den).toNat : Nat) / (den * 2 ^ (-f.shiftOf num den).toNat : Nat) *
        2 ^ (floorLog2 num den + e - f.fracBits) := by
    rw [value, mul_assoc, ← zpow_add₀ two_ne_zero, shiftOf]
    congr 2
    ring
  refine delivers_iff.2 ⟨_, _, _, rounds_roundedQuotient hf pos significand hx rc s, ?_, round_eq f rc k s num den e⟩
  rw [gridValue_carried, ← roundedQuotient_exact_iff pos hx rc s, decide_eq_false_iff_not, not_not]

end Sys2Proof.Machine
end

section
/-! SUPPORT. Conversions between the floating-point formats (O29; 42 R223, R224): the special operands, the value of the
others, and that a Longreal holds every Real. -/

namespace Sys2Proof.Machine

/-! ### Numbers that need no rounding (43 R244) -/

section Range

variable {f : FpFormat} {s : Bool} {m : Nat} {e : Int}

/-- A rounded exponent of the format is stored with the bias (43 R248). -/
theorem FpFormat.resultOf_of_range {k : Nat} {ix : Bool} (low : 1 - (f.bias : Int) ≤ e) (high : e ≤ f.bias) :
    f.resultOf k s m e ix = .value (f.pack s (e + f.bias).toNat (m - 2 ^ f.fracBits)) s false ix false false := by
  have ovf : ¬ (f.bias : Int) < e := by omega
  have uf : ¬ e < 1 - (f.bias : Int) := by omega
  have field : 1 ≤ e + (f.bias : Int) ∧ e + f.bias ≤ 2 * f.bias := by omega
  simp only [resultOf, ovf, uf, decide_false, Bool.false_eq_true, if_false, field, and_self, if_true]

/-- The pattern of a significand and an exponent of the format is finite and has their value (43 R240). -/
theorem FpFormat.val_pack (hf : f.HoldsIntegers) (hm : f.isSignificand m) (low : 1 - (f.bias : Int) ≤ e)
    (high : e ≤ f.bias) :
    f.isFinite (f.pack s (e + f.bias).toNat (m - 2 ^ f.fracBits)) = true ∧
      f.val (f.pack s (e + f.bias).toNat (m - 2 ^ f.fracBits)) = (if s then -1 else 1) * f.gridValue m e := by
  obtain ⟨E, hE⟩ := Int.eq_ofNat_of_zero_le (a := e + f.bias) (by omega)
  obtain ⟨-, -, two_bias⟩ := hf
  obtain ⟨atLeast, below⟩ := hm
  rw [Nat.pow_succ] at below
  have hfrac : m - 2 ^ f.fracBits < 2 ^ f.fracBits := by omega
  have hexp : E < 2 ^ f.expBits := by omega
  rw [hE, Int.toNat_natCast]
  have exp := f.exp_pack s hexp hfrac
  have mant : f.mant (f.pack s E (m - 2 ^ f.fracBits)) = m := by
    rw [FpFormat.mant, exp, if_neg (by omega), f.frac_pack s hfrac, Nat.add_sub_cancel' atLeast]
  have scale : f.scale (f.pack s E (m - 2 ^ f.fracBits)) = e - f.fracBits := by
    rw [FpFormat.scale, exp]
    omega
  constructor
  · rw [isFinite, exp, maxExp, bne_iff_ne]
    omega
  · rw [val, mant, scale, f.sign_pack s hexp hfrac, gridValue, mul_assoc]

end Range

section Exact

variable {f : FpFormat} {rc : BitVec 2} {k : Nat} {s : Bool} {x : Rat} {m m0 : Nat} {e e0 : Int}
  (h0 : f.isSignificand m0) (hx : f.gridValue m0 e0 = x)

include h0 hx

/-- A number of the format is rounded to itself, whatever PS.RC says. -/
theorem FpFormat.Rounds.eq_of_gridValue (h : f.Rounds rc s (· ≤ x) (x ≤ ·) m e) : f.gridValue m e = x := by
  have nearest := h.2 m0 e0 h0
  simp only [hx] at nearest
  split at nearest
  case isTrue =>
    obtain ⟨below, above, -⟩ := nearest
    rcases lt_trichotomy (f.gridValue m e) x with lt | eq | gt
    · linarith [below lt]
    · exact eq
    · linarith [above gt]
  case isFalse =>
    split at nearest
    · exact le_antisymm (nearest.2 le_rfl) nearest.1
    · exact le_antisymm nearest.1 (nearest.2 le_rfl)

/-- Where its exponent is one of the format, it is delivered as the pattern of its value, without an exception. -/
theorem FpFormat.DeliversValue.exact {r : FpResult} (h : f.DeliversValue rc k s x r) (hf : f.HoldsIntegers)
    (low : (2 : Rat) ^ (1 - (f.bias : Int)) ≤ x) (high : x < 2 ^ ((f.bias : Int) + 1)) :
    ∃ y, r = .value y s false false false false ∧ f.isFinite y = true ∧ f.val y = (if s then -1 else 1) * x := by
  obtain ⟨m, e, ix, rounds, inexact, rfl⟩ := delivers_iff.1 h
  have value := rounds.eq_of_gridValue h0 hx
  obtain ⟨sig, -⟩ := rounds
  obtain ⟨atLeast, below⟩ := gridValue_bounds (e := e) sig
  rw [value] at atLeast below
  have e_low : 1 - (f.bias : Int) < e + 1 := (zpow_lt_zpow_iff_right₀ one_lt_two).1 (low.trans_lt below)
  have e_high : e < (f.bias : Int) + 1 := (zpow_lt_zpow_iff_right₀ one_lt_two).1 (atLeast.trans_lt high)
  obtain rfl : ix = false := inexact.2 ⟨value.le, value.ge⟩
  rw [resultOf_of_range (by omega) (by omega), ← value]
  exact ⟨_, rfl, val_pack hf sig (by omega) (by omega)⟩

end Exact

/-! ### The operands of a conversion (43 R240, R241) -/

section Operand

variable {f : FpFormat} {x : Nat}

theorem FpFormat.mant_pos (h : f.isZero x = false) : 0 < f.mant x := by
  rw [mant]
  split
  case isTrue h0 => exact Nat.pos_of_ne_zero fun h' => by simp [isZero, h0, h'] at h
  case isFalse => exact Nat.add_pos_left (Nat.two_pow_pos _) _

theorem FpFormat.mant_lt (f : FpFormat) (x : Nat) : f.mant x < 2 ^ (f.fracBits + 1) := by
  have lt : f.frac x < 2 ^ f.fracBits := Nat.mod_lt x (Nat.two_pow_pos _)
  rw [mant, Nat.pow_succ]
  split <;> omega

/-- The magnitude of a number. -/
theorem FpFormat.abs_val (f : FpFormat) (x : Nat) : |f.val x| = f.mant x * 2 ^ f.scale x := by
  have pos : (0 : Rat) < 2 ^ f.scale x := zpow_pos two_pos _
  rw [val, abs_mul, abs_mul, Nat.abs_cast, abs_of_pos pos]
  cases f.sign x <;> simp

/-- A number with its sign and its magnitude. -/
theorem FpFormat.val_eq (f : FpFormat) (x : Nat) : f.val x = (if f.sign x then -1 else 1) * |f.val x| := by
  rw [abs_val, ← mul_assoc, val]

theorem FpFormat.isNan_of_isFinite (h : f.isFinite x = true) : f.isNan x = false := by
  rw [isFinite, bne_iff_ne] at h
  simp [isNan, h]

theorem FpFormat.isInf_of_isFinite (h : f.isFinite x = true) : f.isInf x = false := by
  rw [isFinite, bne_iff_ne] at h
  simp [isInf, h]

end Operand

/-! ### The cases of a conversion (42 R223, R224) -/

section Convert

variable {f : FpFormat} (g : FpFormat) (rc : BitVec 2) (k : Nat) {x : Nat}

theorem FpFormat.convert_of_isNan (h : f.isNan x = true) : f.convert g rc k x = .invalid := if_pos h

theorem FpFormat.convert_of_isInf (h : f.isInf x = true) : f.convert g rc k x = g.infinity (f.sign x) := by
  have notNan : f.isNan x = false := by
    simp only [isInf, Bool.and_eq_true, beq_iff_eq] at h
    simp [isNan, h.2]
  rw [convert, notNan, h, if_neg Bool.false_ne_true, if_pos rfl]

theorem FpFormat.convert_of_isZero (hf : f.HoldsIntegers) (h : f.isZero x = true) :
    f.convert g rc k x = g.zeroOf (f.sign x) := by
  have finite : f.isFinite x = true := by
    have two_bias := hf.two_bias
    rw [isZero, Bool.and_eq_true, beq_iff_eq] at h
    rw [isFinite, h.1, maxExp, bne_iff_ne]
    omega
  rw [convert, isNan_of_isFinite finite, isInf_of_isFinite finite, h, if_neg Bool.false_ne_true,
    if_neg Bool.false_ne_true, if_pos rfl]

/-- A finite number other than 0 is rounded to the other format. -/
theorem FpFormat.convert_of_isFinite (h : f.isFinite x = true) (h0 : f.isZero x = false) :
    f.convert g rc k x = g.round rc k (f.sign x) (f.mant x) 1 (f.scale x) := by
  simp only [convert, isNan_of_isFinite h, isInf_of_isFinite h, h0, Bool.false_eq_true, if_false]

theorem FpFormat.convert_delivers {g : FpFormat} (hg : g.fracBits ≠ 0) (h : f.isFinite x = true)
    (h0 : f.isZero x = false) : g.DeliversValue rc k (f.sign x) |f.val x| (f.convert g rc k x) := by
  have delivers := round_delivers hg rc k (f.sign x) (mant_pos h0) one_pos (f.scale x)
  rw [Nat.cast_one, div_one, ← abs_val] at delivers
  rwa [convert_of_isFinite g rc k h h0]

end Convert

/-- A positive integer that the significand holds, scaled by a power of two, is a number of the format. -/
theorem FpFormat.gridValue_normalized {f : FpFormat} {n : Nat} (h0 : n ≠ 0) (hn : n < 2 ^ (f.fracBits + 1)) (k : Int) :
    f.gridValue (f.normalized n) (n.log2 + k) = n * 2 ^ k := by
  have hl := log2_le h0 hn
  have exponent : k = ((f.fracBits - n.log2 : Nat) : Int) + (n.log2 + k - f.fracBits) := by omega
  conv_rhs => rw [exponent, zpow_add₀ two_ne_zero, zpow_natCast]
  rw [gridValue, normalized, Nat.cast_mul, Nat.cast_pow, Nat.cast_ofNat, mul_assoc]

/-- The magnitude of a number other than 0 lies between the smallest and the largest powers of two of its format (43
R240, R241). -/
theorem FpFormat.abs_val_bounds {f : FpFormat} {x : Nat} (hf : f.HoldsIntegers) (h : f.isFinite x = true)
    (h0 : f.isZero x = false) : (2 : Rat) ^ (1 - (f.bias : Int) - f.fracBits) ≤ |f.val x| ∧
      |f.val x| < 2 ^ ((f.bias : Int) + 1) := by
  have atLeast : (1 : Rat) ≤ f.mant x := Nat.one_le_cast.2 (mant_pos h0)
  have below : (f.mant x : Rat) < 2 ^ ((f.fracBits : Int) + 1) := by exact_mod_cast f.mant_lt x
  have exp_le : f.exp x ≤ 2 * f.bias := by
    have lt : f.exp x < 2 ^ f.expBits := Nat.mod_lt _ (Nat.two_pow_pos _)
    have two_bias := hf.two_bias
    rw [isFinite, maxExp, bne_iff_ne] at h
    omega
  have bias_pos := hf.bias_pos
  rw [abs_val]
  constructor
  · calc (2 : Rat) ^ (1 - (f.bias : Int) - f.fracBits) ≤ 2 ^ f.scale x := by
          refine zpow_le_zpow_right₀ one_le_two ?_
          rw [scale]
          omega
      _ ≤ f.mant x * 2 ^ f.scale x := le_mul_of_one_le_left (by positivity) atLeast
  · calc (f.mant x : Rat) * 2 ^ f.scale x < 2 ^ ((f.fracBits : Int) + 1) * 2 ^ f.scale x := by gcongr
      _ ≤ 2 ^ ((f.bias : Int) + 1) := by
          rw [← zpow_add₀ two_ne_zero]
          refine zpow_le_zpow_right₀ one_le_two ?_
          rw [scale]
          omega

/-- A Longreal has room for the significand and the exponent of every Real (42 R223). -/
theorem real_in_long {x : Nat} (h : (fpFormat .real).isFinite x = true) (h0 : (fpFormat .real).isZero x = false) :
    (∃ m e, (fpFormat .long).isSignificand m ∧ (fpFormat .long).gridValue m e = |(fpFormat .real).val x|) ∧
      (2 : Rat) ^ (1 - ((fpFormat .long).bias : Int)) ≤ |(fpFormat .real).val x| ∧
      |(fpFormat .real).val x| < 2 ^ (((fpFormat .long).bias : Int) + 1) := by
  have pos := (FpFormat.mant_pos h0).ne'
  have narrow : (fpFormat .real).mant x < 2 ^ ((fpFormat .long).fracBits + 1) :=
    ((fpFormat .real).mant_lt x).trans_le (Nat.pow_le_pow_right two_pos (by decide))
  obtain ⟨low, high⟩ := FpFormat.abs_val_bounds (fpFormat_holdsIntegers .real) h h0
  refine ⟨?_, (zpow_le_zpow_right₀ one_le_two (by decide)).trans low,
    high.trans_le (zpow_le_zpow_right₀ one_le_two (by decide))⟩
  rw [FpFormat.abs_val]
  exact ⟨_, _, FpFormat.isSignificand_normalized pos narrow, FpFormat.gridValue_normalized pos narrow _⟩

/-- Settles O29: the cases of a conversion, the rounding of the finite ones, and that a Longreal holds every Real. -/
theorem floatToFloatConversions : Obligations.FloatToFloatConversions := by
  refine ⟨fun src des s _ _ _ h => floatWrite_ends (i := .cvrl src des) rfl h,
    fun src des s _ _ _ h => floatWrite_ends (i := .cvlr src des) rfl h, fun f g rc k x formats => ?_,
    fun rc k x _ finite nonzero => ?_⟩
  · obtain ⟨hf, hg⟩ : f.HoldsIntegers ∧ g.fracBits ≠ 0 := by
      rcases formats with ⟨rfl, rfl⟩ | ⟨rfl, rfl⟩ <;> exact ⟨fpFormat_holdsIntegers _, by decide⟩
    exact ⟨f.convert_of_isNan g rc k, f.convert_of_isInf g rc k, f.convert_of_isZero g rc k hf,
      f.convert_delivers rc k hg⟩
  · obtain ⟨⟨m, e, significand, value⟩, low, high⟩ := real_in_long finite nonzero
    have delivers := FpFormat.convert_delivers (g := fpFormat .long) rc k (by decide) finite nonzero
    rw [FpFormat.val_eq (fpFormat .real)]
    exact delivers.exact significand value (fpFormat_holdsIntegers _) low high

end Sys2Proof.Machine
end

section
/-! SUPPORT. Floating-point instructions (O30, O31, O36, O37): how each ends, negation and copied signs as bit patterns,
and comparison by value (43 R246 to R252, R261 to R263). -/

namespace Sys2Proof.Machine

/-! ### Instructions over floating-point operands (43 R246, R248, R250) -/

section Shapes

variable {t u : OpType}

/-- An instruction whose meaning is the shape that modifies delivers any result equal to that of the shape. -/
theorem modifiesFloat_of_exec {mk : Mode t → Mode t → Instr} {op res : BitVec 2 → Nat → Nat → Nat → FpResult}
    (he : HasShape floatModify mk op)
    (hr : ∀ rc k (a b : BitVec t.bits), op rc k a.toNat b.toNat = res rc k a.toNat b.toNat) :
    ModifiesFloat mk res := by
  intro src des s s2 a b p h
  rw [← hr]
  exact floatModify_ends (he src des s) h

/-- The same for the shape that only writes. -/
theorem writesFloat_of_exec {mk : Mode t → Mode u → Instr} {op : BitVec 2 → Nat → Nat → FpResult}
    {res : BitVec 2 → Nat → BitVec t.bits → FpResult} (he : HasShape floatWrite mk op)
    (hr : ∀ rc k a, op rc k a.toNat = res rc k a) :
    WritesFloat mk res (fun k a => faultOne (fpFormat t) k a.toNat) := by
  intro src des s s2 a p h
  rw [← hr]
  exact floatWrite_ends (he src des s) h

/-- A comparison delivers the flags that it writes. -/
theorem comparesFloat_of_exec {mk : Mode t → Mode t → Instr} {flags : Nat → Nat → Bool × Bool × Bool × Bool}
    (he : ∀ src des s, exec (mk src des) s = floatCompare (mk src des).length src des s)
    (hf : ∀ ps a b, floatCompareFlags (fpFormat t) ps a b =
      Ps.withFp (Ps.withCond ps (flags a b).1 false (flags a b).2.1 (flags a b).2.2.1 (flags a b).2.2.2)
        false false false false false) :
    ComparesFloat mk flags := by
  intro src des s s2 a b h
  have ends := floatCompare_ends (he src des s) h
  rwa [hf] at ends

end Shapes

/-- Settles O30: every one of them is a shape over its operation. -/
theorem floatingPointInstructionsDeliverTheirResult : Obligations.FloatingPointInstructionsDeliverTheirResult := by
  have modifies {t : OpType} {mk : Mode t → Mode t → Instr} {op : BitVec 2 → Nat → Nat → Nat → FpResult}
      (he : HasShape floatModify mk op) : ModifiesFloat mk op := modifiesFloat_of_exec he fun _ _ _ _ => rfl
  have writes {t : OpType} {mk : Mode t → Mode t → Instr} {op : BitVec 2 → Nat → Nat → FpResult}
      (he : HasShape floatWrite mk op) := writesFloat_of_exec he (res := fun rc k a => op rc k a.toNat) fun _ _ _ => rfl
  exact ⟨modifies fun _ _ _ => rfl, modifies fun _ _ _ => rfl, modifies fun _ _ _ => rfl, modifies fun _ _ _ => rfl,
    modifies fun _ _ _ => rfl, modifies fun _ _ _ => rfl, modifies fun _ _ _ => rfl, modifies fun _ _ _ => rfl,
    modifies fun _ _ _ => rfl, modifies fun _ _ _ => rfl, modifies fun _ _ _ => rfl, modifies fun _ _ _ => rfl,
    modifies fun _ _ _ => rfl, modifies fun _ _ _ => rfl, writes fun _ _ _ => rfl, writes fun _ _ _ => rfl⟩

theorem fpFormat_fracBits_ne_zero (t : OpType) : (fpFormat t).fracBits ≠ 0 := by
  cases t <;> decide

/-- Settles O31. -/
theorem roundingIsCorrect : Obligations.RoundingIsCorrect :=
  fun t rc k s _ _ e hn hd => FpFormat.round_delivers (fpFormat_fracBits_ne_zero t) rc k s hn hd e

/-! ### Sign bits (43 R261, R262) -/

/-- A pattern with a new sign keeps its other bits. -/
theorem FpFormat.pack_exp_frac (f : FpFormat) (s : Bool) (x : Nat) :
    f.pack s (f.exp x) (f.frac x) = 2 ^ (f.expBits + f.fracBits) * s.toNat + x % 2 ^ (f.expBits + f.fracBits) := by
  have low : x % 2 ^ (f.expBits + f.fracBits) = f.frac x + 2 ^ f.fracBits * f.exp x := by
    rw [Nat.add_comm, Nat.pow_add, Nat.mod_mul, frac, exp]
  rw [low, pack, Nat.pow_add]
  ring

theorem FpFormat.testBit_pack_exp_frac (f : FpFormat) (s : Bool) (x j : Nat) :
    (f.pack s (f.exp x) (f.frac x)).testBit j =
      if j < f.expBits + f.fracBits then x.testBit j else decide (j = f.expBits + f.fracBits) && s := by
  rw [pack_exp_frac, Nat.testBit_two_pow_mul_add _ (Nat.mod_lt _ (Nat.two_pow_pos _))]
  split
  case isTrue inside => rw [Nat.testBit_mod_two_pow, decide_eq_true inside, Bool.true_and]
  case isFalse outside =>
    rw [Nat.testBit_bool_toNat, Bool.and_comm, Bool.and_comm s]
    congr 1
    exact decide_eq_decide.2 (by omega)

theorem FpFormat.sign_eq_testBit (f : FpFormat) (x : Nat) : f.sign x = x.testBit (f.expBits + f.fracBits) := by
  rw [sign, Nat.testBit_eq_decide_div_mod_eq, beq_eq_decide]

section SignBit

variable {t : OpType} (ht : t.isFp = true)

include ht

theorem fpFormat_signBit : (fpFormat t).expBits + (fpFormat t).fracBits = t.bits - 1 := by
  have width := fpFormat_width ht
  omega

theorem fpFormat_bits_pos : 0 < t.bits := by
  have width := fpFormat_width ht
  omega

/-- Only the sign bit of the mask is set. -/
theorem getLsbD_signMask (j : Nat) : (1#t.bits <<< (t.bits - 1)).getLsbD j = decide (j = t.bits - 1) := by
  have pos := fpFormat_bits_pos ht
  rw [← BitVec.twoPow_eq, BitVec.getLsbD_twoPow]
  by_cases h : j = t.bits - 1
  · simp [h, pos]
  · simp [h, Ne.symm h]

/-- Inverting the sign inverts its bit. -/
theorem fpFormat_negate (a : BitVec t.bits) :
    (fpFormat t).negate a.toNat = (a ^^^ (1#t.bits <<< (t.bits - 1))).toNat := by
  have pos := fpFormat_bits_pos ht
  refine Nat.eq_of_testBit_eq fun j => ?_
  rw [FpFormat.negate, FpFormat.testBit_pack_exp_frac, FpFormat.sign_eq_testBit, fpFormat_signBit ht,
    BitVec.testBit_toNat, BitVec.testBit_toNat, BitVec.testBit_toNat, BitVec.getLsbD_xor, getLsbD_signMask ht]
  rcases lt_trichotomy j (t.bits - 1) with below | rfl | above
  · simp [below, below.ne]
  · simp
  · have outside : a.getLsbD j = false := BitVec.getLsbD_of_ge a j (by omega)
    simp [above.not_gt, above.ne', outside]

/-- Copying a sign copies its bit. -/
theorem fpFormat_copySign (a b : BitVec t.bits) :
    (fpFormat t).copySign a.toNat b.toNat =
      ((a &&& (1#t.bits <<< (t.bits - 1))) ||| (b &&& ~~~(1#t.bits <<< (t.bits - 1)))).toNat := by
  have pos := fpFormat_bits_pos ht
  refine Nat.eq_of_testBit_eq fun j => ?_
  rw [FpFormat.copySign, FpFormat.testBit_pack_exp_frac, FpFormat.sign_eq_testBit, fpFormat_signBit ht,
    BitVec.testBit_toNat, BitVec.testBit_toNat, BitVec.testBit_toNat, BitVec.getLsbD_or, BitVec.getLsbD_and,
    BitVec.getLsbD_and, BitVec.getLsbD_not, getLsbD_signMask ht]
  rcases lt_trichotomy j (t.bits - 1) with below | rfl | above
  · simp [below, below.ne]
    omega
  · simp
  · have outside : b.getLsbD j = false := BitVec.getLsbD_of_ge b j (by omega)
    simp [above.not_gt, above.ne', outside]

end SignBit

/-- Settles O36: the two operations change the sign bit alone, and their flags are those of the pattern. -/
theorem negateAndCopySign : Obligations.NegateAndCopySign := by
  have neg {t : OpType} {mk : Mode t → Mode t → Instr} (ht : t.isFp = true)
      (he : HasShape floatWrite mk fun _ _ a => (fpFormat t).plain ((fpFormat t).negate a)) :=
    writesFloat_of_exec he fun _ _ a => congrArg (fpFormat t).plain (fpFormat_negate ht a)
  have sgn {t : OpType} {mk : Mode t → Mode t → Instr} (ht : t.isFp = true)
      (he : HasShape floatModify mk fun _ _ a b => (fpFormat t).plain ((fpFormat t).copySign a b)) :=
    modifiesFloat_of_exec he (res := fun _ _ a b => (fpFormat t).plain
        ((BitVec.ofNat t.bits a &&& (1#t.bits <<< (t.bits - 1))) |||
          (BitVec.ofNat t.bits b &&& ~~~(1#t.bits <<< (t.bits - 1)))).toNat) fun _ _ a b => by
      rw [fpFormat_copySign ht, BitVec.ofNat_toNat, BitVec.ofNat_toNat, BitVec.setWidth_eq, BitVec.setWidth_eq]
  exact ⟨neg rfl fun _ _ _ => rfl, neg rfl fun _ _ _ => rfl, sgn rfl fun _ _ _ => rfl, sgn rfl fun _ _ _ => rfl⟩

/-! ### Values at a common scale (43 R240, R241) -/

/-- The factor of a sign. -/
def signFactor (s : Bool) : Rat := if s then -1 else 1

theorem signFactor_not (s : Bool) : signFactor (!s) = -signFactor s := by
  cases s <;> simp [signFactor]

theorem signFactor_mul (s t : Bool) : signFactor s * signFactor t = signFactor (s != t) := by
  cases s <;> cases t <;> norm_num [signFactor]

theorem signFactor_div (s t : Bool) : signFactor s / signFactor t = signFactor (s != t) := by
  cases s <;> cases t <;> norm_num [signFactor]

theorem signFactor_mul_self (s : Bool) : signFactor s * signFactor s = 1 := by
  cases s <;> norm_num [signFactor]

theorem abs_signFactor_mul (s : Bool) (x : Rat) : |signFactor s * x| = |x| := by
  cases s <;> simp [signFactor]

namespace FpFormat

theorem signFactor_sign_mul_abs (f : FpFormat) (x : Nat) : signFactor (f.sign x) * |f.val x| = f.val x :=
  (f.val_eq x).symm

theorem signFactor_not_sign_mul_abs (f : FpFormat) (x : Nat) : signFactor (!f.sign x) * |f.val x| = -f.val x := by
  rw [signFactor_not, neg_mul, signFactor_sign_mul_abs]

theorem signFactor_mul_val (f : FpFormat) (x : Nat) : signFactor (f.sign x) * f.val x = |f.val x| := by
  rw [← f.signFactor_sign_mul_abs, ← mul_assoc, signFactor_mul_self, one_mul, abs_signFactor_mul, abs_abs]

/-- A significand brought to a scale that is not above its own has the magnitude of its number. -/
theorem mantAt_mul (f : FpFormat) {e : Int} {x : Nat} (he : e ≤ f.scale x) :
    (f.mantAt e x : Rat) * 2 ^ e = |f.val x| := by
  obtain ⟨j, hj⟩ := Int.le.dest he
  rw [abs_val, mantAt, ← hj, add_sub_cancel_left, Int.toNat_natCast, zpow_add₀ two_ne_zero, zpow_natCast, Nat.cast_mul,
    Nat.cast_pow, Nat.cast_ofNat]
  ring

/-- The significand with a sign given to it, as an integer at a scale. -/
def signedAs (f : FpFormat) (e : Int) (s : Bool) (x : Nat) : Int := if s then -(f.mantAt e x : Int) else f.mantAt e x

theorem signedAs_mul (f : FpFormat) {e : Int} {x : Nat} (he : e ≤ f.scale x) (s : Bool) :
    (f.signedAs e s x : Rat) * 2 ^ e = signFactor s * |f.val x| := by
  rw [← f.mantAt_mul he, signedAs, signFactor]
  cases s <;> simp

theorem signedAt_mul (f : FpFormat) {e : Int} {x : Nat} (he : e ≤ f.scale x) :
    (f.signedAt e x : Rat) * 2 ^ e = f.val x :=
  (f.signedAs_mul he (f.sign x)).trans (f.signFactor_sign_mul_abs x)

/-! ### Comparison (43 R263) -/

theorem signedAt_lt_iff (f : FpFormat) {e : Int} {a b : Nat} (ha : e ≤ f.scale a) (hb : e ≤ f.scale b) :
    f.signedAt e a < f.signedAt e b ↔ f.val a < f.val b := by
  rw [← f.signedAt_mul ha, ← f.signedAt_mul hb, mul_lt_mul_iff_left₀ (by positivity), Int.cast_lt]

theorem signedAt_eq_iff (f : FpFormat) {e : Int} {a b : Nat} (ha : e ≤ f.scale a) (hb : e ≤ f.scale b) :
    f.signedAt e a = f.signedAt e b ↔ f.val a = f.val b := by
  have pos : (2 : Rat) ^ e ≠ 0 := by positivity
  rw [← f.signedAt_mul ha, ← f.signedAt_mul hb, mul_left_inj' pos, Int.cast_inj]

theorem less_eq (f : FpFormat) (a b : Nat) : f.less a b =
    if f.isInf a && f.isInf b then f.sign a && !f.sign b
    else if f.isInf a then f.sign a
    else if f.isInf b then !f.sign b
    else decide (f.val a < f.val b) := by
  simp only [less, f.signedAt_lt_iff (min_le_left _ _) (min_le_right _ _)]

theorem equal_eq (f : FpFormat) (a b : Nat) : f.equal a b =
    if f.isInf a || f.isInf b then f.isInf a && f.isInf b && (f.sign a == f.sign b)
    else decide (f.val a = f.val b) := by
  simp only [equal, f.signedAt_eq_iff (min_le_left _ _) (min_le_right _ _)]

end FpFormat

/-- Settles O37: the two relations are those of the values, and a Nan makes both false. -/
theorem floatingPointCompareFlags : Obligations.FloatingPointCompareFlags := by
  unfold Obligations.FloatingPointCompareFlags
  intro less same flags
  have less_eq (f : FpFormat) (a b : Nat) : f.less a b = less f a b := f.less_eq a b
  have same_eq (f : FpFormat) (a b : Nat) : f.equal a b = same f a b := f.equal_eq a b
  have written (f : FpFormat) (ps : Word) (a b : Nat) : floatCompareFlags f ps a b =
      Ps.withFp (Ps.withCond ps (flags f a b).1 false (flags f a b).2.1 (flags f a b).2.2.1 (flags f a b).2.2.2)
        false false false false false := by
    rw [floatCompareFlags]
    by_cases nan : (f.isNan a || f.isNan b) = true
    · have flags_eq : flags f a b = (false, false, false, true) := if_pos nan
      simp only [flags_eq, nan, Bool.not_true, Bool.false_and]
    · have flags_eq : flags f a b = (less f a b, same f a b, less f a b, false) := if_neg nan
      simp only [flags_eq, eq_false_of_ne_true nan, less_eq, same_eq, Bool.not_false, Bool.true_and]
  exact ⟨comparesFloat_of_exec (fun _ _ _ => rfl) (written (fpFormat .real)),
    comparesFloat_of_exec (fun _ _ _ => rfl) (written (fpFormat .long))⟩

end Sys2Proof.Machine
end

section
/-! SUPPORT. Add, subtract, multiply and divide in floating point (O32, O33; 43 R251, R253 to R258): the kinds of
operands, and the exact results that are rounded. -/

namespace Sys2Proof.Machine

namespace FpFormat

/-! ### Kinds of operands (43 R240) -/

section Kinds

variable {f : FpFormat} {x : Nat}

theorem isNan_of_isInf (h : f.isInf x = true) : f.isNan x = false := by
  simp only [isInf, Bool.and_eq_true, beq_iff_eq] at h
  simp [isNan, h.2]

theorem isFinite_of_isZero (hf : f.HoldsIntegers) (h : f.isZero x = true) : f.isFinite x = true := by
  have two_bias := hf.two_bias
  rw [isZero, Bool.and_eq_true, beq_iff_eq] at h
  rw [isFinite, h.1, maxExp, bne_iff_ne]
  omega

theorem isZero_of_isInf (hf : f.HoldsIntegers) (h : f.isInf x = true) : f.isZero x = false := by
  rw [← Bool.not_eq_true]
  intro zero
  rw [isInf_of_isFinite (isFinite_of_isZero hf zero)] at h
  cases h

/-- The magnitude of a number other than 0 is positive. -/
theorem abs_val_pos (h : f.isZero x = false) : 0 < |f.val x| := by
  have : (0 : Rat) < f.mant x := Nat.cast_pos.2 (mant_pos h)
  rw [abs_val]
  positivity

theorem val_eq_zero_iff : f.val x = 0 ↔ f.isZero x = true := by
  constructor
  · intro h
    rw [← Bool.not_eq_false]
    intro nonzero
    have pos := abs_val_pos nonzero
    rw [h, abs_zero] at pos
    exact pos.false
  · intro h
    simp only [isZero, Bool.and_eq_true, beq_iff_eq] at h
    rw [val, mant, if_pos h.1, h.2, Nat.cast_zero, mul_zero, zero_mul]

end Kinds

/-! ### Sums (43 R251, R253 to R255) -/

section Sums

variable {f : FpFormat} (rc : BitVec 2) (k : Nat) (sa sb : Bool) {a b : Nat}

theorem sum_of_isNan (h : f.isNan a = true ∨ f.isNan b = true) : f.sum rc k sa a sb b = .invalid :=
  if_pos (Bool.or_eq_true_iff.2 h)

theorem sum_of_isInf (ha : f.isInf a = true) (hb : f.isInf b = true) :
    f.sum rc k sa a sb b = if sa = sb then f.infinity sa else .invalid := by
  simp [sum, isNan_of_isInf ha, isNan_of_isInf hb, ha, hb]

theorem sum_of_isInf_left (ha : f.isInf a = true) (hb : f.isFinite b = true) :
    f.sum rc k sa a sb b = f.infinity sa := by
  simp [sum, isNan_of_isInf ha, isNan_of_isFinite hb, ha, isInf_of_isFinite hb]

theorem sum_of_isInf_right (ha : f.isFinite a = true) (hb : f.isInf b = true) :
    f.sum rc k sa a sb b = f.infinity sb := by
  simp [sum, isNan_of_isFinite ha, isNan_of_isInf hb, isInf_of_isFinite ha, hb]

/-- The smaller of the scales of two patterns. -/
def commonScale (f : FpFormat) (a b : Nat) : Int := min (f.scale a) (f.scale b)

theorem commonScale_le_left (f : FpFormat) (a b : Nat) : f.commonScale a b ≤ f.scale a := min_le_left _ _

theorem commonScale_le_right (f : FpFormat) (a b : Nat) : f.commonScale a b ≤ f.scale b := min_le_right _ _

/-- The exact sum of two numbers with signs given to them, as an integer at their common scale. -/
def exactSum (f : FpFormat) (sa : Bool) (a : Nat) (sb : Bool) (b : Nat) : Int :=
  f.signedAs (f.commonScale a b) sa a + f.signedAs (f.commonScale a b) sb b

theorem exactSum_mul (f : FpFormat) (sa : Bool) (a : Nat) (sb : Bool) (b : Nat) :
    (f.exactSum sa a sb b : Rat) * 2 ^ f.commonScale a b =
      signFactor sa * |f.val a| + signFactor sb * |f.val b| := by
  rw [exactSum, Int.cast_add, add_mul, f.signedAs_mul (f.commonScale_le_left a b),
    f.signedAs_mul (f.commonScale_le_right a b)]

theorem exactSum_eq_zero_iff {v : Rat} (hv : v = signFactor sa * |f.val a| + signFactor sb * |f.val b|) :
    f.exactSum sa a sb b = 0 ↔ v = 0 := by
  have pos : (2 : Rat) ^ f.commonScale a b ≠ 0 := by positivity
  rw [hv, ← exactSum_mul, mul_eq_zero_iff_right pos, Int.cast_eq_zero]

/-- The sum of finite operands: a zero with the sign of the table, or the exact sum rounded. -/
theorem sum_of_isFinite (ha : f.isFinite a = true) (hb : f.isFinite b = true) :
    f.sum rc k sa a sb b =
      if f.exactSum sa a sb b = 0 then f.zeroOf (if f.isZero a && f.isZero b && sa == sb then sa else rc == 2)
      else f.round rc k (decide (f.exactSum sa a sb b < 0)) (f.exactSum sa a sb b).natAbs 1
        (f.commonScale a b) := by
  simp only [sum, isNan_of_isFinite ha, isNan_of_isFinite hb, isInf_of_isFinite ha, isInf_of_isFinite hb, Bool.or_self,
    Bool.and_self, Bool.false_eq_true, if_false]
  rfl

end Sums

/-- A positive magnitude delivered with the sign of a number is that number delivered. -/
theorem DeliversValue.of_sign {f : FpFormat} {rc : BitVec 2} {k : Nat} {s : Bool} {x v : Rat} {r : FpResult}
    (h : f.DeliversValue rc k s x r) (hx : 0 < x) (hv : v = signFactor s * x) :
    f.DeliversValue rc k (decide (v < 0)) |v| r := by
  have sign : decide (v < 0) = s := by
    cases s
    · simp [hv, signFactor, hx.le]
    · simp [hv, signFactor, hx]
  have magnitude : |v| = x := by rw [hv, abs_signFactor_mul, abs_of_pos hx]
  rwa [sign, magnitude]

section Exact

variable {f : FpFormat} (hf : f.fracBits ≠ 0) (rc : BitVec 2) (k : Nat) {a b : Nat} {v : Rat}

include hf

/-- A sum of finite operands that is not 0 is its exact value rounded once. -/
theorem sum_delivers (ha : f.isFinite a = true) (hb : f.isFinite b = true) (sa sb : Bool)
    (hv : v = signFactor sa * |f.val a| + signFactor sb * |f.val b|) (h0 : v ≠ 0) :
    f.DeliversValue rc k (decide (v < 0)) |v| (f.sum rc k sa a sb b) := by
  have exact := f.exactSum_mul sa a sb b
  have nonzero : f.exactSum sa a sb b ≠ 0 := mt (exactSum_eq_zero_iff sa sb hv).1 h0
  rw [sum_of_isFinite rc k sa sb ha hb, if_neg nonzero]
  rw [← hv] at exact
  generalize f.exactSum sa a sb b = n at *
  have delivers := round_delivers hf rc k (decide (n < 0)) (Int.natAbs_pos.2 nonzero) one_pos
    (f.commonScale a b)
  have pos : (0 : Rat) < n.natAbs := Nat.cast_pos.2 (Int.natAbs_pos.2 nonzero)
  refine delivers.of_sign (by positivity) ?_
  have signed : (n : Rat) = signFactor (decide (n < 0)) * n.natAbs := by
    rw [Nat.cast_natAbs, signFactor]
    rcases nonzero.lt_or_gt with neg | pos
    · simp [neg, abs_of_neg neg]
    · simp [pos.le, abs_of_pos pos]
  rw [← exact, signed, Nat.cast_one, div_one, mul_assoc]

/-- A product that is not 0 is its exact value rounded once. -/
theorem mul_delivers (ha : f.isFinite a = true) (hb : f.isFinite b = true) (h0 : f.val a * f.val b ≠ 0) :
    f.DeliversValue rc k (decide (f.val a * f.val b < 0)) |f.val a * f.val b| (f.mul rc k a b) := by
  obtain ⟨ha0, hb0⟩ := mul_ne_zero_iff.1 h0
  rw [ne_eq, val_eq_zero_iff, Bool.not_eq_true] at ha0 hb0
  have delivers := round_delivers hf rc k (f.sign a != f.sign b) (Nat.mul_pos (mant_pos ha0) (mant_pos hb0)) one_pos
    (f.scale a + f.scale b)
  have exact : ((f.mant a * f.mant b : Nat) : Rat) / (1 : Nat) * 2 ^ (f.scale a + f.scale b) =
      |f.val a| * |f.val b| := by
    rw [abs_val, abs_val, zpow_add₀ two_ne_zero]
    push_cast
    ring
  rw [exact] at delivers
  have rounded : f.mul rc k a b =
      f.round rc k (f.sign a != f.sign b) (f.mant a * f.mant b) 1 (f.scale a + f.scale b) := by
    simp [mul, isNan_of_isFinite, isInf_of_isFinite, ha, hb, ha0, hb0]
  rw [rounded]
  refine delivers.of_sign (mul_pos (abs_val_pos ha0) (abs_val_pos hb0)) ?_
  rw [← signFactor_mul, mul_mul_mul_comm, signFactor_sign_mul_abs, signFactor_sign_mul_abs]

/-- A quotient that is not 0 is its exact value rounded once. -/
theorem quotient_delivers (ha : f.isFinite a = true) (hb : f.isFinite b = true) (hb0 : f.isZero b = false)
    (h0 : f.val a / f.val b ≠ 0) :
    f.DeliversValue rc k (decide (f.val a / f.val b < 0)) |f.val a / f.val b| (f.quotient rc k a b) := by
  have ha0 := left_ne_zero_of_mul h0
  rw [ne_eq, val_eq_zero_iff, Bool.not_eq_true] at ha0
  have delivers := round_delivers hf rc k (f.sign a != f.sign b) (mant_pos ha0) (mant_pos hb0) (f.scale a - f.scale b)
  have exact : (f.mant a : Rat) / f.mant b * 2 ^ (f.scale a - f.scale b) = |f.val a| / |f.val b| := by
    rw [abs_val, abs_val, zpow_sub₀ two_ne_zero, div_mul_div_comm]
  rw [exact] at delivers
  have rounded : f.quotient rc k a b =
      f.round rc k (f.sign a != f.sign b) (f.mant a) (f.mant b) (f.scale a - f.scale b) := by
    simp [quotient, isNan_of_isFinite, isInf_of_isFinite, ha, hb, ha0, hb0]
  rw [rounded]
  refine delivers.of_sign (div_pos (abs_val_pos ha0) (abs_val_pos hb0)) ?_
  rw [← signFactor_div, div_mul_div_comm, signFactor_sign_mul_abs, signFactor_sign_mul_abs]

end Exact

end FpFormat

/-- Settles O32: SUB and SBR add with the sign of one operand inverted. -/
theorem finiteArithmeticIsExactThenRounded : Obligations.FiniteArithmeticIsExactThenRounded := by
  intro t rc k src dsrc f hs hd delivers
  have hf : f.fracBits ≠ 0 := fpFormat_fracBits_ne_zero t
  refine ⟨f.sum_delivers hf rc k hd hs _ _ ?_, f.sum_delivers hf rc k hd hs _ _ ?_,
    f.sum_delivers hf rc k hs hd _ _ ?_, f.mul_delivers hf rc k hs hd, f.quotient_delivers hf rc k hd hs,
    f.quotient_delivers hf rc k hs hd⟩
  · rw [f.signFactor_sign_mul_abs, f.signFactor_sign_mul_abs, add_comm]
  · rw [f.signFactor_sign_mul_abs, f.signFactor_not_sign_mul_abs, sub_eq_add_neg]
  · rw [f.signFactor_sign_mul_abs, f.signFactor_not_sign_mul_abs, sub_eq_add_neg]

/-! ### Products and quotients of special operands (43 R251, R256 to R258) -/

namespace FpFormat

section Special

variable {f : FpFormat} (rc : BitVec 2) (k : Nat) {a b : Nat}

theorem mul_of_isNan (h : f.isNan a = true ∨ f.isNan b = true) : f.mul rc k a b = .invalid :=
  if_pos (Bool.or_eq_true_iff.2 h)

theorem quotient_of_isNan (h : f.isNan a = true ∨ f.isNan b = true) : f.quotient rc k a b = .invalid :=
  if_pos (Bool.or_eq_true_iff.2 h)

section Infinite

variable (hf : f.HoldsIntegers)

include hf

theorem mul_of_isInf (ha : f.isInf a = true) (hb : f.isInf b = true) :
    f.mul rc k a b = f.infinity (f.sign a != f.sign b) := by
  simp [mul, isNan_of_isInf, isZero_of_isInf hf, ha, hb]

theorem mul_of_isInf_left (ha : f.isInf a = true) (hb : f.isFinite b = true) :
    f.mul rc k a b = if f.isZero b then .invalid else f.infinity (f.sign a != f.sign b) := by
  simp [mul, isNan_of_isInf, isZero_of_isInf hf, isNan_of_isFinite, isInf_of_isFinite, ha, hb]

theorem mul_of_isInf_right (ha : f.isFinite a = true) (hb : f.isInf b = true) :
    f.mul rc k a b = if f.isZero a then .invalid else f.infinity (f.sign a != f.sign b) := by
  simp [mul, isNan_of_isInf, isZero_of_isInf hf, isNan_of_isFinite, isInf_of_isFinite, ha, hb]

theorem quotient_of_isInf (ha : f.isInf a = true) (hb : f.isInf b = true) : f.quotient rc k a b = .invalid := by
  simp [quotient, isNan_of_isInf, isZero_of_isInf hf, ha, hb]

theorem quotient_of_isInf_left (ha : f.isInf a = true) (hb : f.isFinite b = true) :
    f.quotient rc k a b = if f.isZero b then .zeroDivide else f.infinity (f.sign a != f.sign b) := by
  simp [quotient, isNan_of_isInf, isZero_of_isInf hf, isNan_of_isFinite, isInf_of_isFinite, ha, hb]

theorem quotient_of_isInf_right (ha : f.isFinite a = true) (hb : f.isInf b = true) :
    f.quotient rc k a b = f.zeroOf (f.sign a != f.sign b) := by
  simp [quotient, isNan_of_isInf, isZero_of_isInf hf, isNan_of_isFinite, isInf_of_isFinite, ha, hb]

end Infinite

section Finite

variable (ha : f.isFinite a = true) (hb : f.isFinite b = true)

include ha hb

theorem mul_of_isZero (h0 : f.isZero a = true ∨ f.isZero b = true) :
    f.mul rc k a b = f.zeroOf (f.sign a != f.sign b) := by
  simp [mul, isNan_of_isFinite, isInf_of_isFinite, ha, hb, h0]

theorem quotient_of_isZero (ha0 : f.isZero a = true) (hb0 : f.isZero b = true) :
    f.quotient rc k a b = .invalid := by
  simp [quotient, isNan_of_isFinite, ha, hb, ha0, hb0]

theorem quotient_of_isZero_left (ha0 : f.isZero a = true) (hb0 : f.isZero b = false) :
    f.quotient rc k a b = f.zeroOf (f.sign a != f.sign b) := by
  simp [quotient, isNan_of_isFinite, isInf_of_isFinite, ha, hb, ha0, hb0]

theorem quotient_of_isZero_right (ha0 : f.isZero a = false) (hb0 : f.isZero b = true) :
    f.quotient rc k a b = .zeroDivide := by
  simp [quotient, isNan_of_isFinite, isInf_of_isFinite, ha, hb, ha0, hb0]

/-- A sum of exact value 0 has the sign of two zeros of like sign, and else that of the rounding mode. -/
theorem sum_of_eq_zero (sa sb : Bool) (h0 : signFactor sa * |f.val a| + signFactor sb * |f.val b| = 0) :
    f.sum rc k sa a sb b =
      f.zeroOf (if f.isZero a && f.isZero b && sa == sb then sa else rc == 2) := by
  rw [sum_of_isFinite rc k sa sb ha hb, if_pos ((exactSum_eq_zero_iff sa sb rfl).2 h0)]

end Finite

end Special

end FpFormat

/-- Two signs are equal where they do not differ. -/
theorem ite_eq_sign {α : Type} (s t : Bool) (result : Bool → α) (other : α) :
    (if s = t then result s else other) = if t != s then other else result t := by
  cases s <;> cases t <;> rfl

/-- One sign is the inverse of the other where they differ. -/
theorem ite_eq_not_sign {α : Type} (s t : Bool) (result : Bool → α) (other : α) :
    (if s = !t then result s else other) = if t != s then result s else other := by
  cases s <;> cases t <;> rfl

/-- Settles O33: the kinds of the operands, one after another. ADD and SUB take the second operand first, and DIV
divides it. -/
theorem floatingPointSpecialCases : Obligations.FloatingPointSpecialCases := by
  intro t rc k a b f x inf zero
  have hf : f.HoldsIntegers := fpFormat_holdsIntegers t
  have swap : (f.sign b != f.sign a) = x := bne_comm
  refine ⟨rfl, rfl, fun h => ?_, fun ha hb => ?_, fun ha hb => ?_, fun ha hb => ?_, fun ha hb => ?_⟩
  · exact ⟨f.sum_of_isNan rc k _ _ h.symm, f.sum_of_isNan rc k _ _ h.symm, f.mul_of_isNan rc k h,
      f.quotient_of_isNan rc k h.symm⟩
  · refine ⟨(f.sum_of_isInf rc k _ _ hb ha).trans ?_, (f.sum_of_isInf rc k _ _ hb ha).trans ?_,
      f.mul_of_isInf rc k hf ha hb, f.quotient_of_isInf rc k hf hb ha⟩
    · exact ite_eq_sign _ _ inf .invalid
    · exact ite_eq_not_sign _ _ inf .invalid
  · exact ⟨f.sum_of_isInf_right rc k _ _ hb ha, f.sum_of_isInf_right rc k _ _ hb ha, f.mul_of_isInf_left rc k hf ha hb,
      (f.quotient_of_isInf_right rc k hf hb ha).trans (congrArg zero swap)⟩
  · exact ⟨f.sum_of_isInf_left rc k _ _ hb ha, f.sum_of_isInf_left rc k _ _ hb ha, f.mul_of_isInf_right rc k hf ha hb,
      (f.quotient_of_isInf_left rc k hf hb ha).trans (congrArg (ite _ .zeroDivide <| inf ·) swap)⟩
  refine ⟨fun ha0 hb0 => ⟨?_, ?_, f.quotient_of_isZero rc k hb ha hb0 ha0⟩, fun ha0 h => ?_, fun ha0 h => ?_,
    f.mul_of_isZero rc k ha hb, fun ha0 hb0 => f.quotient_of_isZero_right rc k hb ha hb0 ha0,
    fun ha0 hb0 => (f.quotient_of_isZero_left rc k hb ha hb0 ha0).trans (congrArg zero swap)⟩
  · have both := f.sum_of_eq_zero rc k hb ha (f.sign b) (f.sign a) <| by
      rw [f.val_eq_zero_iff.2 ha0, f.val_eq_zero_iff.2 hb0, abs_zero, mul_zero, mul_zero, add_zero]
    simp only [ha0, hb0, Bool.true_and, beq_iff_eq] at both
    exact both.trans (congrArg zero (ite_eq_sign _ _ id _))
  · have both := f.sum_of_eq_zero rc k hb ha (f.sign b) (!f.sign a) <| by
      rw [f.val_eq_zero_iff.2 ha0, f.val_eq_zero_iff.2 hb0, abs_zero, mul_zero, mul_zero, add_zero]
    simp only [ha0, hb0, Bool.true_and, beq_iff_eq] at both
    exact both.trans (congrArg zero (ite_eq_not_sign _ _ id _))
  · have exact := f.sum_of_eq_zero rc k hb ha (f.sign b) (f.sign a) <| by
      rwa [f.signFactor_sign_mul_abs, f.signFactor_sign_mul_abs, add_comm]
    rwa [ha0, Bool.and_false, Bool.false_and] at exact
  · have exact := f.sum_of_eq_zero rc k hb ha (f.sign b) (!f.sign a) <| by
      rwa [f.signFactor_sign_mul_abs, f.signFactor_not_sign_mul_abs, ← sub_eq_add_neg]
    rwa [ha0, Bool.and_false, Bool.false_and] at exact

end Sys2Proof.Machine
end

section
/-! SUPPORT. The square root (O34; 43 R260): the integer root that SQT develops, and why rounding it rounds the exact
root. -/

namespace Sys2Proof.Machine

/-! ### The integer root -/

theorem isqrtFrom_eq_sqrt {n : Nat} (i : Nat) {r : Nat} (low : r * r ≤ n) (high : n < (r + 2 ^ i) * (r + 2 ^ i)) :
    isqrtFrom n i r = n.sqrt := by
  induction i generalizing r with
  | zero => exact Nat.eq_sqrt.2 ⟨low, high⟩
  | succ i ih =>
    rw [isqrtFrom]
    split
    case isTrue taken =>
      refine ih taken ?_
      rwa [Nat.add_assoc, ← Nat.two_mul, ← Nat.pow_succ']
    case isFalse left => exact ih low (Nat.lt_of_not_le left)

theorem isqrt_eq_sqrt (n : Nat) : isqrt n = n.sqrt := by
  refine isqrtFrom_eq_sqrt _ (Nat.zero_le n) ?_
  rw [Nat.zero_add, ← Nat.pow_add]
  exact Nat.lt_log2_self.trans_le (Nat.pow_le_pow_right two_pos (by omega))

/-- The integer root in halves, with a half for the bits that it leaves out. -/
def rootInHalves (n : Nat) : Nat := 2 * n.sqrt + (decide (n.sqrt * n.sqrt ≠ n)).toNat

theorem two_mul_le_rootInHalves_iff (n j : Nat) : 2 * j ≤ rootInHalves n ↔ j * j ≤ n := by
  rw [← Nat.le_sqrt, rootInHalves]
  cases decide (n.sqrt * n.sqrt ≠ n) <;> simp only [Bool.toNat_false, Bool.toNat_true] <;> omega

theorem rootInHalves_le_two_mul_iff (n j : Nat) : rootInHalves n ≤ 2 * j ↔ n ≤ j * j := by
  by_cases square : n.sqrt * n.sqrt = n
  · have halves : rootInHalves n = 2 * n.sqrt := by simp [rootInHalves, square]
    rw [halves, Nat.mul_le_mul_left_iff two_pos, ← Nat.mul_self_le_mul_self_iff, square]
  · have halves : rootInHalves n = 2 * n.sqrt + 1 := by simp [rootInHalves, square]
    have above : n < j * j ↔ n.sqrt < j := Nat.sqrt_lt.symm
    have ne : n ≠ j * j := fun h => square (by rw [h, Nat.sqrt_eq])
    rw [halves, ne.le_iff_lt, above]
    omega

/-! ### A number known by its place among multiples (43 R244) -/

/-- The cut given by `le` and `ge` lies as the number x does among the multiples of 2 to the w, and is exact only at one
of them. -/
structure CutAt (le ge : Rat → Prop) (x : Rat) (w : Int) : Prop where
  le_iff : ∀ n : Nat, le (n * 2 ^ w) ↔ n * 2 ^ w ≤ x
  ge_iff : ∀ n : Nat, ge (n * 2 ^ w) ↔ x ≤ n * 2 ^ w
  le_of_le : ∀ {g h : Rat}, 0 ≤ g → g ≤ h → le h → le g
  ge_of_le : ∀ {g h : Rat}, 0 ≤ g → g ≤ h → ge g → ge h
  exact : ∀ {g : Rat}, 0 ≤ g → le g → ge g → ∃ n : Nat, g = n * 2 ^ w

/-- The square root of an integer, scaled: the cut of its square. -/
theorem cutAt_sqrt (n : Nat) (w : Int) {v : Rat} (hv : v = n * (2 ^ w * 2 ^ w)) :
    CutAt (fun g => g * g ≤ v) (fun g => v ≤ g * g) (rootInHalves n / 2 * 2 ^ w) w := by
  have pos : (0 : Rat) < 2 ^ w := zpow_pos two_pos w
  have pos2 : (0 : Rat) < 2 ^ w * 2 ^ w := mul_pos pos pos
  constructor
  · intro j
    rw [hv, mul_mul_mul_comm, mul_le_mul_iff_left₀ pos2, mul_le_mul_iff_left₀ pos, le_div_iff₀ two_pos]
    have := two_mul_le_rootInHalves_iff n j
    rw [Nat.mul_comm 2 j] at this
    exact_mod_cast this.symm
  · intro j
    rw [hv, mul_mul_mul_comm, mul_le_mul_iff_left₀ pos2, mul_le_mul_iff_left₀ pos, div_le_iff₀ two_pos]
    have := rootInHalves_le_two_mul_iff n j
    rw [Nat.mul_comm 2 j] at this
    exact_mod_cast this.symm
  · exact fun h0 le h => (mul_self_le_mul_self h0 le).trans h
  · exact fun h0 le h => h.trans (mul_self_le_mul_self h0 le)
  · intro g h0 le ge
    have square : g / 2 ^ w * (g / 2 ^ w) = n := by
      rw [div_mul_div_comm, div_eq_iff pos2.ne', ← hv]
      exact le_antisymm le ge
    obtain ⟨j, hj⟩ := Rat.isSquare_natCast_iff.1 ⟨g / 2 ^ w, square.symm⟩
    refine ⟨j, ?_⟩
    rw [hj, Nat.cast_mul] at square
    rw [← div_eq_iff pos.ne']
    exact (mul_self_inj (by positivity) j.cast_nonneg).1 square

namespace FpFormat

section Cut

variable {f : FpFormat} {m : Nat} {e w : Int}

theorem gridValue_nonneg (m : Nat) (e : Int) : 0 ≤ f.gridValue m e := by
  rw [gridValue]
  positivity

/-- A number of the format is a multiple of any smaller power of two. -/
theorem gridValue_multiple (h : w ≤ e - f.fracBits) : ∃ n : Nat, f.gridValue m e = n * 2 ^ w := by
  obtain ⟨j, hj⟩ := Int.le.dest h
  refine ⟨m * 2 ^ j, ?_⟩
  rw [gridValue, ← hj, zpow_add₀ two_ne_zero, zpow_natCast]
  push_cast
  ring

/-- So is the middle between it and the next, if the power is half as small. -/
theorem middle_multiple (h : w + 1 ≤ e - f.fracBits) :
    ∃ n : Nat, (f.gridValue m e + f.gridValue (m + 1) e) / 2 = n * 2 ^ w := by
  obtain ⟨n, hn⟩ := gridValue_multiple (f := f) (m := m) (e := e) (w := w) (by omega)
  obtain ⟨n', hn'⟩ := gridValue_multiple (m := 1) h
  refine ⟨n + n', ?_⟩
  rw [gridValue, Nat.cast_one, one_mul, zpow_add_one₀ two_ne_zero] at hn'
  rw [middle_eq, hn, hn']
  push_cast
  ring

theorem gridValue_lt_succ : f.gridValue m e < f.gridValue (m + 1) e := by
  rw [gridValue_succ]
  exact lt_add_of_pos_right _ (by positivity)

/-- The next number of the format. -/
theorem exists_next (h : f.isSignificand m) : ∃ m2 e2, f.isSignificand m2 ∧
    f.gridValue m2 e2 = f.gridValue (m + 1) e :=
  ⟨_, _, isSignificand_carried (h.1.trans m.le_succ) h.2, gridValue_carried⟩

/-- The number before one of the format; its exponent may be one less. -/
theorem exists_previous (h : f.isSignificand m) : ∃ m1 e1, f.isSignificand m1 ∧ e - 1 ≤ e1 ∧
    f.gridValue (m1 + 1) e1 = f.gridValue m e := by
  obtain ⟨low, high⟩ := h
  have pos := Nat.two_pow_pos f.fracBits
  rcases low.eq_or_lt with lowest | above
  · refine ⟨2 ^ (f.fracBits + 1) - 1, e - 1, ⟨?_, ?_⟩, le_rfl, ?_⟩
    · rw [Nat.pow_succ]
      omega
    · exact Nat.sub_lt (Nat.two_pow_pos _) one_pos
    · rw [Nat.sub_add_cancel (Nat.two_pow_pos _), ← lowest, ← gridValue_carried, carried, if_pos rfl, sub_add_cancel]
  · exact ⟨m - 1, e, ⟨by omega, by omega⟩, by omega, by rw [Nat.sub_add_cancel (by omega)]⟩

section Places

variable {le ge : Rat → Prop} {x : Rat} (hc : CutAt le ge x w)

include hc

theorem le_gridValue_iff_of_cut (h : w ≤ e - f.fracBits) : le (f.gridValue m e) ↔ f.gridValue m e ≤ x := by
  obtain ⟨n, hn⟩ := gridValue_multiple (m := m) h
  rw [hn, hc.le_iff]

theorem ge_gridValue_iff_of_cut (h : w ≤ e - f.fracBits) : ge (f.gridValue m e) ↔ x ≤ f.gridValue m e := by
  obtain ⟨n, hn⟩ := gridValue_multiple (m := m) h
  rw [hn, hc.ge_iff]

theorem le_middle_iff_of_cut (h : w + 1 ≤ e - f.fracBits) :
    le ((f.gridValue m e + f.gridValue (m + 1) e) / 2) ↔ (f.gridValue m e + f.gridValue (m + 1) e) / 2 ≤ x := by
  obtain ⟨n, hn⟩ := middle_multiple (m := m) h
  rw [hn, hc.le_iff]

theorem ge_middle_iff_of_cut (h : w + 1 ≤ e - f.fracBits) :
    ge ((f.gridValue m e + f.gridValue (m + 1) e) / 2) ↔ x ≤ (f.gridValue m e + f.gridValue (m + 1) e) / 2 := by
  obtain ⟨n, hn⟩ := middle_multiple (m := m) h
  rw [hn, hc.ge_iff]

end Places

/-- Rounding looks at no more of a number than its place among the multiples of a quarter unit of the result: those are
the middles to the two numbers next to it, and the others lie beyond these. -/
theorem Rounds.of_cut {rc : BitVec 2} {s : Bool} {x : Rat} {le ge : Rat → Prop}
    (h : f.Rounds rc s (· ≤ x) (x ≤ ·) m e) (hc : CutAt le ge x w) (hw : w + 2 ≤ e - f.fracBits) :
    f.Rounds rc s le ge m e := by
  obtain ⟨significand, rounded⟩ := h
  obtain ⟨m2, e2, significand2, next⟩ := exists_next (e := e) significand
  obtain ⟨m1, e1, significand1, he1, previous⟩ := exists_previous (e := e) significand
  have below : f.gridValue m1 e1 < f.gridValue m e := previous ▸ gridValue_lt_succ
  have above : f.gridValue m e < f.gridValue (m + 1) e := gridValue_lt_succ
  have round1 := rounded m1 e1 significand1
  have round2 := rounded m2 e2 significand2
  refine ⟨significand, fun m' e' h' => ?_⟩
  have round' := rounded m' e' h'
  have gap1 := gridValue_gap (e := e1) (e' := e') significand1 h'
  have gap2 := gridValue_gap (e := e) (e' := e') significand h'
  rw [previous] at gap1
  rw [next] at round2
  have nonneg := f.gridValue_nonneg m e
  have nonneg' := f.gridValue_nonneg m' e'
  have nonneg1 := f.gridValue_nonneg m1 e1
  intro r g
  simp only at round1 round2 round'
  split
  case isTrue nearest =>
    simp only [nearest, if_true] at round1 round2 round'
    refine ⟨fun lt => ?_, fun lt => ?_, fun ne hle hge => ?_⟩
    · have middle := (ge_middle_iff_of_cut hc (by omega)).2 (round2.1 above)
      exact hc.ge_of_le (by linarith) (by linarith [gap2.resolve_left lt.not_ge]) middle
    · have middle := (le_middle_iff_of_cut (f := f) (m := m1) (e := e1) hc (by omega)).2
      rw [previous, add_comm] at middle
      exact hc.le_of_le (by linarith) (by linarith [gap1.resolve_right lt.not_ge]) (middle (round1.2.1 below))
    · obtain ⟨j, hj⟩ := hc.exact (by linarith) hle hge
      rw [hj, hc.le_iff, ← hj] at hle
      rw [hj, hc.ge_iff, ← hj] at hge
      exact round'.2.2 ne hle hge
  case isFalse directed =>
    simp only [directed, if_false] at round1 round2 round'
    split
    case isTrue away =>
      rw [if_pos away] at round1 round'
      refine ⟨(ge_gridValue_iff_of_cut hc (by omega)).2 round'.1, fun hge => gap1.resolve_left fun le1 => ?_⟩
      have ge1 := (ge_gridValue_iff_of_cut hc (by omega)).1 (hc.ge_of_le nonneg' le1 hge)
      exact (round1.2 ge1).not_gt below
    case isFalse toward =>
      rw [if_neg toward] at round2 round'
      refine ⟨(le_gridValue_iff_of_cut hc (by omega)).2 round'.1, fun hle => gap2.resolve_right fun ge2 => ?_⟩
      have le2 := (le_gridValue_iff_of_cut hc (by omega)).1 (hc.le_of_le (f.gridValue_nonneg _ _) ge2 hle)
      exact (round2.2 le2).not_gt above

/-- The exponent of a rounded number is not below that of the number. -/
theorem Rounds.le_exponent {rc : BitVec 2} {s : Bool} {x : Rat} {l : Int} (h : f.Rounds rc s (· ≤ x) (x ≤ ·) m e)
    (hl : (2 : Rat) ^ l ≤ x) : l ≤ e := by
  obtain ⟨significand, rounded⟩ := h
  have power : f.gridValue (2 ^ f.fracBits) l = 2 ^ l := by
    rw [gridValue, Nat.cast_pow, Nat.cast_ofNat, ← zpow_natCast, ← zpow_add₀ two_ne_zero, add_sub_cancel]
  have atLeast : (2 : Rat) ^ l ≤ f.gridValue m e := by
    have at_power := rounded _ l ⟨le_rfl, Nat.pow_lt_pow_succ one_lt_two⟩
    simp only [power] at at_power
    split at at_power
    case isTrue =>
      by_contra lt
      linarith [at_power.1 (not_le.1 lt)]
    case isFalse =>
      split at at_power
      · exact hl.trans at_power.1
      · exact at_power.2 hl
  have lt : (2 : Rat) ^ l < 2 ^ (e + 1) := atLeast.trans_lt (gridValue_bounds significand).2
  exact Int.lt_add_one_iff.1 ((zpow_lt_zpow_iff_right₀ one_lt_two).1 lt)

/-- What is delivered for a number is delivered for any cut in its place. -/
theorem DeliversValue.of_cut {rc : BitVec 2} {k : Nat} {s : Bool} {x : Rat} {r : FpResult} {le ge : Rat → Prop}
    (h : f.DeliversValue rc k s x r) (hc : CutAt le ge x w) (hx : (2 : Rat) ^ (w + 2 + f.fracBits) ≤ x) :
    f.Delivers rc k s le ge r := by
  obtain ⟨m, e, ix, rounds, inexact, rfl⟩ := delivers_iff.1 h
  have exponent := rounds.le_exponent hx
  refine delivers_iff.2 ⟨m, e, ix, rounds.of_cut hc (by omega), ?_, rfl⟩
  rw [inexact, le_gridValue_iff_of_cut hc (by omega), ge_gridValue_iff_of_cut hc (by omega)]

end Cut

/-! ### SQT (43 R260) -/

section Sqrt

variable {f : FpFormat} (rc : BitVec 2) (k : Nat) {a : Nat}

theorem sqrt_of_invalid (h : f.isNan a = true ∨ (f.sign a = true ∧ f.isZero a = false)) :
    f.sqrt rc k a = .invalid := by
  refine if_pos (Bool.or_eq_true_iff.2 (h.imp_right fun ⟨negative, nonzero⟩ => ?_))
  rw [isNeg, negative, nonzero]
  rfl

theorem sqrt_of_isZero (hf : f.HoldsIntegers) (h : f.isZero a = true) :
    f.sqrt rc k a = .value a false true false false false := by
  simp [sqrt, isNeg, isNan_of_isFinite (isFinite_of_isZero hf h), h]

theorem sqrt_of_isInf (hf : f.HoldsIntegers) (h : f.isInf a = true) (hs : f.sign a = false) :
    f.sqrt rc k a = .value a false false false false false := by
  simp [sqrt, isNeg, isNan_of_isInf h, isZero_of_isInf hf h, h, hs]

/-- A number above 0 is an integer times an even power of two, whose integer root is developed and rounded. -/
theorem sqrt_of_isFinite (h : f.isFinite a = true) (h0 : f.isZero a = false) (hs : f.sign a = false) :
    ∃ (m : Nat) (c : Int), 0 < m ∧ f.val a = m * 2 ^ (2 * c) ∧ f.sqrt rc k a =
      (f.round rc k false (rootInHalves (m * 2 ^ (2 * (f.fracBits + 3)))) 2
        (c - (f.fracBits + 3 : Nat))).nonNegative := by
  have pos := mant_pos h0
  have value : f.val a = f.mant a * 2 ^ f.scale a := by
    rw [← abs_val, ← signFactor_sign_mul_abs, hs, signFactor]
    simp
  have finite : f.sqrt rc k a =
      let odd := f.scale a % 2 == 1
      (f.round rc k false
        (rootInHalves ((if odd then 2 * f.mant a else f.mant a) * 2 ^ (2 * (f.fracBits + 3)))) 2
        ((if odd then f.scale a - 1 else f.scale a) / 2 - (f.fracBits + 3 : Nat))).nonNegative := by
    simp [sqrt, isNeg, isNan_of_isFinite h, isInf_of_isFinite h, h0, hs, isqrt_eq_sqrt, rootInHalves]
  rw [finite]
  by_cases odd : f.scale a % 2 = 1
  · refine ⟨2 * f.mant a, (f.scale a - 1) / 2, by omega, ?_, by simp [odd]⟩
    have scale : f.scale a = 2 * ((f.scale a - 1) / 2) + 1 := by omega
    rw [value]
    conv_lhs => rw [scale, zpow_add_one₀ two_ne_zero]
    push_cast
    ring
  · refine ⟨f.mant a, f.scale a / 2, pos, ?_, by simp [odd]⟩
    have scale : 2 * (f.scale a / 2) = f.scale a := by omega
    rw [scale, value]

/-- The root of a number above 0 is the exact root rounded once. -/
theorem sqrt_delivers (hf : f.fracBits ≠ 0) (h : f.isFinite a = true) (h0 : f.isZero a = false)
    (hs : f.sign a = false) :
    f.Delivers rc k false (fun g => g * g ≤ f.val a) (fun g => f.val a ≤ g * g) (f.sqrt rc k a) := by
  obtain ⟨m, c, pos, value, rounded⟩ := sqrt_of_isFinite rc k h h0 hs
  rw [rounded]
  generalize hn : m * 2 ^ (2 * (f.fracBits + 3)) = n
  generalize hw : c - (f.fracBits + 3 : Nat) = w
  have square : f.val a = n * (2 ^ w * 2 ^ w) := by
    have scale : 2 * c = ((2 * (f.fracBits + 3) : Nat) : Int) + (w + w) := by
      push_cast at hw ⊢
      omega
    rw [value, ← hn, scale, zpow_add₀ two_ne_zero, zpow_natCast, zpow_add₀ two_ne_zero]
    push_cast
    ring
  have large : 2 * 2 ^ (f.fracBits + 3) ≤ rootInHalves n := by
    rw [two_mul_le_rootInHalves_iff, ← Nat.pow_add, ← Nat.two_mul, ← hn]
    exact Nat.le_mul_of_pos_left _ pos
  have rounding := round_delivers hf rc k false (lt_of_lt_of_le (by positivity) large) two_pos w
  have root := rounding.of_cut (cutAt_sqrt n w square) <| by
    have large' : (2 : Rat) ^ (f.fracBits + 3) ≤ rootInHalves n / 2 := by
      rw [le_div_iff₀ two_pos, mul_comm]
      exact_mod_cast large
    calc (2 : Rat) ^ (w + 2 + f.fracBits) ≤ 2 ^ (((f.fracBits + 3 : Nat) : Int) + w) :=
          zpow_le_zpow_right₀ one_le_two (by omega)
      _ = 2 ^ (f.fracBits + 3) * 2 ^ w := by rw [zpow_add₀ two_ne_zero, zpow_natCast]
      _ ≤ rootInHalves n / 2 * 2 ^ w := by gcongr
  obtain ⟨m', e', ix, rounds, inexact, result⟩ := delivers_iff.1 root
  exact delivers_iff.2 ⟨m', e', ix, rounds, inexact, by rw [result]; rfl⟩

end Sqrt

end FpFormat

/-- Settles O34. -/
theorem squareRootIsCorrectlyRounded : Obligations.SquareRootIsCorrectlyRounded := by
  intro t rc k a f
  have hf : f.HoldsIntegers := fpFormat_holdsIntegers t
  exact ⟨f.sqrt_of_invalid rc k, f.sqrt_of_isZero rc k hf, f.sqrt_of_isInf rc k hf,
    f.sqrt_delivers rc k (fpFormat_fracBits_ne_zero t)⟩

end Sys2Proof.Machine
end

section
/-! SUPPORT. The remainder (O35; 43 R259): what is left of the dividend after the developed part of the quotient, and
why the format holds it exactly. -/

namespace Sys2Proof.Machine

/-! ### The truncated quotient -/

/-- A number without its fraction. -/
def truncate (q : Rat) : Int := if 0 ≤ q then ⌊q⌋ else ⌈q⌉

/-- Truncation keeps the sign and truncates the magnitude. -/
theorem truncate_signFactor_mul (s : Bool) {x : Rat} (hx : 0 ≤ x) :
    truncate (signFactor s * x) = if s then -(⌊x⌋₊ : Int) else ⌊x⌋₊ := by
  have floor : (⌊x⌋₊ : Int) = ⌊x⌋ := Int.natCast_floor_eq_floor hx
  rw [floor, truncate, signFactor]
  cases s
  · simp [hx]
  · rcases hx.eq_or_lt with rfl | pos
    · simp
    · simp [pos, Int.ceil_neg]

theorem natAbs_truncate (s : Bool) {x : Rat} (hx : 0 ≤ x) : (truncate (signFactor s * x)).natAbs = ⌊x⌋₊ := by
  rw [truncate_signFactor_mul s hx]
  cases s <;> simp

/-- The sign of a truncated number that is not 0 is its own. -/
theorem sign_truncate_mul (s : Bool) {x : Rat} (hx : 0 ≤ x) {n : Nat} (hn : ⌊x⌋₊ = 0 → n = 0) :
    (((truncate (signFactor s * x)).sign * n : Int) : Rat) = signFactor s * n := by
  rw [truncate_signFactor_mul s hx, signFactor]
  rcases Nat.eq_zero_or_pos ⌊x⌋₊ with zero | pos
  · simp [hn zero]
  · have sign : (⌊x⌋₊ : Int).sign = 1 := Int.sign_eq_one_of_pos (Int.natCast_pos.2 pos)
    cases s <;> simp [sign]

/-- The developed part of a quotient, without its exception for a quotient of one bit. -/
theorem developed_eq (step : Option Nat) (q : Nat) : developed step q =
    match step with
    | none => q
    | some j => q / 2 ^ (q.log2 - j) * 2 ^ (q.log2 - j) := by
  unfold developed
  split
  case isTrue one_bit => cases step <;> simp [one_bit]
  case isFalse => cases step <;> rfl

/-- It clears some of the lowest bits. -/
theorem exists_developed_eq (step : Option Nat) (q : Nat) : ∃ c, developed step q = q / 2 ^ c * 2 ^ c := by
  rw [developed_eq]
  cases step with
  | none => exact ⟨0, by simp⟩
  | some j => exact ⟨q.log2 - j, rfl⟩

theorem developed_le (step : Option Nat) (q : Nat) : developed step q ≤ q := by
  obtain ⟨c, hc⟩ := exists_developed_eq step q
  rw [hc]
  exact Nat.div_mul_le_self q _

/-! ### What is left (43 R259) -/

/-- A remainder of a scaled significand by a scaled significand, one of them at its own scale, is a scaled significand:
below the divisor where the dividend has as many low zeros, and below the dividend where it has not. -/
theorem exists_mod_eq {p a b : Nat} (ha : a < p) (hb0 : 0 < b) (hb : b < p) (i c : Nat) :
    ∃ n j, n < p ∧ a * 2 ^ i % (b * 2 ^ c) = n * 2 ^ j := by
  rcases Nat.le_total c i with le | le
  · obtain ⟨j, rfl⟩ := Nat.exists_eq_add_of_le' le
    refine ⟨a * 2 ^ j % b, c, (Nat.mod_lt _ hb0).trans hb, ?_⟩
    rw [Nat.pow_add, ← Nat.mul_assoc, Nat.mul_mod_mul_right]
  · obtain ⟨j, rfl⟩ := Nat.exists_eq_add_of_le' le
    refine ⟨a % (b * 2 ^ j), i, (Nat.mod_le _ _).trans_lt ha, ?_⟩
    rw [Nat.pow_add, ← Nat.mul_assoc, Nat.mul_mod_mul_right]

namespace FpFormat

/-- The size of the truncated quotient, from the significands at their common scale. -/
def quotientSize (f : FpFormat) (src dsrc : Nat) : Nat :=
  f.mantAt (f.commonScale src dsrc) dsrc / f.mantAt (f.commonScale src dsrc) src

/-- The dividend less the developed part of the quotient times the divisor, at their common scale. -/
def remainder (f : FpFormat) (step : Option Nat) (src dsrc : Nat) : Nat :=
  f.mantAt (f.commonScale src dsrc) dsrc -
    developed step (f.quotientSize src dsrc) * f.mantAt (f.commonScale src dsrc) src

/-- The remainder by a multiple of the divisor. -/
theorem exists_remainder_eq_mod (f : FpFormat) (step : Option Nat) (src dsrc : Nat) : ∃ c, f.remainder step src dsrc =
    f.mantAt (f.commonScale src dsrc) dsrc % (f.mantAt (f.commonScale src dsrc) src * 2 ^ c) := by
  rw [remainder, quotientSize]
  generalize f.mantAt (f.commonScale src dsrc) dsrc = d
  generalize f.mantAt (f.commonScale src dsrc) src = m
  obtain ⟨c, hc⟩ := exists_developed_eq step (d / m)
  refine ⟨c, ?_⟩
  simp only [hc, Nat.div_div_eq_div_mul, Nat.mod_eq_sub_div_mul, Nat.mul_assoc, Nat.mul_comm (2 ^ c)]

theorem exists_remainder_eq (f : FpFormat) (step : Option Nat) {src dsrc : Nat} (h0 : f.isZero src = false) :
    ∃ n j, n < 2 ^ (f.fracBits + 1) ∧ f.remainder step src dsrc = n * 2 ^ j := by
  obtain ⟨c, hc⟩ := f.exists_remainder_eq_mod step src dsrc
  rw [hc, mantAt, mantAt, commonScale]
  rcases le_total (f.scale src) (f.scale dsrc) with le | le
  · rw [min_eq_left le, sub_self, Int.toNat_zero, Nat.pow_zero, Nat.mul_one]
    exact exists_mod_eq (f.mant_lt dsrc) (mant_pos h0) (f.mant_lt src) _ c
  · rw [min_eq_right le, sub_self, Int.toNat_zero, Nat.pow_zero, Nat.mul_one]
    exact ⟨_, 0, (Nat.mod_le _ _).trans_lt (f.mant_lt dsrc), (Nat.mul_one _).symm⟩

/-- The remainder as a number. -/
theorem remainder_mul (f : FpFormat) (step : Option Nat) (src dsrc : Nat) :
    (f.remainder step src dsrc : Rat) * 2 ^ f.commonScale src dsrc =
      |f.val dsrc| - developed step (f.quotientSize src dsrc) * |f.val src| := by
  have le := Nat.mul_le_of_le_div _ _ _ (developed_le step (f.quotientSize src dsrc))
  rw [← f.mantAt_mul (f.commonScale_le_left src dsrc), ← f.mantAt_mul (f.commonScale_le_right src dsrc), remainder,
    Nat.cast_sub le]
  push_cast
  ring

theorem floor_quotient (f : FpFormat) (src dsrc : Nat) : ⌊|f.val dsrc| / |f.val src|⌋₊ = f.quotientSize src dsrc := by
  rw [← f.mantAt_mul (f.commonScale_le_left src dsrc), ← f.mantAt_mul (f.commonScale_le_right src dsrc),
    mul_div_mul_right _ _ (by positivity), Nat.floor_div_eq_div, quotientSize]

/-- The dividend less the developed part of the truncated quotient times the divisor is the remainder with the sign of
the dividend. -/
theorem sub_developed_mul (f : FpFormat) (step : Option Nat) (src dsrc : Nat) :
    f.val dsrc - (((truncate (f.val dsrc / f.val src)).sign *
        developed step (truncate (f.val dsrc / f.val src)).natAbs : Int) : Rat) * f.val src =
      signFactor (f.sign dsrc) * (f.remainder step src dsrc * 2 ^ f.commonScale src dsrc) := by
  have quotient : f.val dsrc / f.val src =
      signFactor (f.sign dsrc != f.sign src) * (|f.val dsrc| / |f.val src|) := by
    rw [← signFactor_div, div_mul_div_comm, signFactor_sign_mul_abs, signFactor_sign_mul_abs]
  have nonneg : 0 ≤ |f.val dsrc| / |f.val src| := by positivity
  have none_of_zero : ⌊|f.val dsrc| / |f.val src|⌋₊ = 0 → developed step ⌊|f.val dsrc| / |f.val src|⌋₊ = 0 :=
    fun h => Nat.le_zero.1 (h ▸ developed_le step _)
  rw [quotient, natAbs_truncate _ nonneg, sign_truncate_mul _ nonneg none_of_zero, floor_quotient, remainder_mul,
    mul_sub, signFactor_sign_mul_abs, ← signFactor_mul_val, ← signFactor_mul]
  ring

/-! ### REM (43 R259) -/

section Rem

variable {f : FpFormat} (rc : BitVec 2) (k : Nat) {src dsrc : Nat}

theorem rem_of_invalid (h : f.isNan src = true ∨ f.isNan dsrc = true ∨ f.isZero src = true ∨
    f.isInf dsrc = true) : f.rem rc k src dsrc = .invalid := by
  rw [rem, remBy]
  split
  case isTrue => rfl
  case isFalse notNan =>
    rw [Bool.or_eq_true, not_or] at notNan
    exact if_pos (Bool.or_eq_true_iff.2 ((h.resolve_left notNan.1).resolve_left notNan.2))

theorem rem_of_isInf (hf : f.HoldsIntegers) (hs : f.isInf src = true) (hd : f.isFinite dsrc = true) :
    f.rem rc k src dsrc = .value dsrc (f.sign dsrc && !f.isZero dsrc) true false false false := by
  simp [rem, remBy, isNan_of_isInf hs, isZero_of_isInf hf hs, isNan_of_isFinite hd, isInf_of_isFinite hd, hs, isNeg]

theorem rem_of_isFinite (hs : f.isFinite src = true) (h0 : f.isZero src = false) (hd : f.isFinite dsrc = true) :
    f.rem rc k src dsrc =
      if f.remainder Config.remStep src dsrc = 0 then f.zeroOf (f.sign dsrc)
      else (f.round rc k (f.sign dsrc) (f.remainder Config.remStep src dsrc) 1 (f.commonScale src dsrc)).withZ
        (decide (f.remainder Config.remStep src dsrc < f.mantAt (f.commonScale src dsrc) src)) := by
  simp only [rem, remBy, isNan_of_isFinite hs, isNan_of_isFinite hd, isInf_of_isFinite hs, isInf_of_isFinite hd, h0,
    Bool.or_self, Bool.false_eq_true, if_false]
  rfl

/-- A rounded exponent that is not above the bias does not overflow. -/
theorem resultOf_of_le {s ix : Bool} {m : Nat} {e : Int} (high : e ≤ f.bias) : f.resultOf k s m e ix =
    .value (f.resultOf k s m e ix).bits s false ix (decide (e < 1 - (f.bias : Int))) false := by
  have ovf : ¬ (f.bias : Int) < e := by omega
  simp only [resultOf, FpResult.bits, ovf, decide_false]

/-- A number that the significand holds, below the largest power of two, is rounded to itself without Overflow. -/
theorem round_exact (hf : f.fracBits ≠ 0) (s : Bool) {num n j : Nat} (h0 : num ≠ 0) (scaled : num = n * 2 ^ j)
    (hn : n < 2 ^ (f.fracBits + 1)) {e : Int} (high : (num : Rat) * 2 ^ e < 2 ^ ((f.bias : Int) + 1)) :
    ∃ r uf, f.round rc k s num 1 e = .value r s false false uf false ∧
      f.DeliversValue rc k s (num * 2 ^ e) (.value r s false false uf false) := by
  subst scaled
  have delivers := round_delivers hf rc k s (Nat.pos_of_ne_zero h0) one_pos e
  rw [Nat.cast_one, div_one] at delivers
  have value := gridValue_normalized (f := f) (left_ne_zero_of_mul h0) hn (j + e)
  rw [zpow_add₀ two_ne_zero, zpow_natCast, ← mul_assoc, ← Nat.cast_ofNat, ← Nat.cast_pow, ← Nat.cast_mul] at value
  obtain ⟨m', e', ix, rounds, inexact, result⟩ := delivers_iff.1 delivers
  have exact := rounds.eq_of_gridValue (isSignificand_normalized (left_ne_zero_of_mul h0) hn) value
  obtain rfl : ix = false := inexact.2 ⟨exact.le, exact.ge⟩
  have exponent : e' ≤ f.bias := by
    have lt := (gridValue_bounds (e := e') rounds.1).1.trans_lt (exact.trans_lt high)
    exact Int.lt_add_one_iff.1 ((zpow_lt_zpow_iff_right₀ one_lt_two).1 lt)
  rw [resultOf_of_le k exponent] at result
  exact ⟨_, _, result, result ▸ delivers⟩

/-- The remainder by a number other than 0 is zero or exact; Z compares it with the divisor. -/
theorem rem_delivers (hf : f.HoldsIntegers) (hf0 : f.fracBits ≠ 0) (hs : f.isFinite src = true)
    (h0 : f.isZero src = false) (hd : f.isFinite dsrc = true) {v : Rat}
    (hv : v = signFactor (f.sign dsrc) * (f.remainder Config.remStep src dsrc * 2 ^ f.commonScale src dsrc)) :
    (v = 0 → f.rem rc k src dsrc = f.zeroOf (f.sign dsrc)) ∧
    (v ≠ 0 → ∃ r uf, f.DeliversValue rc k (f.sign dsrc) |v| (.value r (f.sign dsrc) false false uf false) ∧
      f.rem rc k src dsrc = .value r (f.sign dsrc) (decide (|v| < |f.val src|)) false uf false) := by
  have pos : (0 : Rat) < 2 ^ f.commonScale src dsrc := by positivity
  have magnitude : |v| = f.remainder Config.remStep src dsrc * 2 ^ f.commonScale src dsrc := by
    rw [hv, abs_signFactor_mul, abs_of_nonneg (by positivity)]
  have zero_iff : v = 0 ↔ f.remainder Config.remStep src dsrc = 0 := by
    rw [← abs_eq_zero, magnitude, mul_eq_zero_iff_right pos.ne', Nat.cast_eq_zero]
  have below : |v| ≤ |f.val dsrc| := by
    rw [magnitude, remainder_mul]
    exact sub_le_self _ (by positivity)
  rw [rem_of_isFinite rc k hs h0 hd]
  refine ⟨fun zero => if_pos (zero_iff.1 zero), fun nonzero => ?_⟩
  rw [if_neg (mt zero_iff.2 nonzero)]
  have dividend : f.isZero dsrc = false := by
    rw [← Bool.not_eq_true, ← val_eq_zero_iff]
    intro zero
    rw [zero, abs_zero] at below
    exact nonzero (abs_nonpos_iff.1 below)
  have order : |v| < |f.val src| ↔
      f.remainder Config.remStep src dsrc < f.mantAt (f.commonScale src dsrc) src := by
    rw [magnitude, ← f.mantAt_mul (f.commonScale_le_left src dsrc), mul_lt_mul_iff_left₀ pos, Nat.cast_lt]
  obtain ⟨n, j, hn, scaled⟩ := f.exists_remainder_eq Config.remStep (dsrc := dsrc) h0
  obtain ⟨r, uf, rounded, delivers⟩ := round_exact rc k hf0 (f.sign dsrc) (mt zero_iff.2 nonzero) scaled hn
    (magnitude ▸ below.trans_lt (abs_val_bounds hf hd dividend).2)
  rw [decide_eq_decide.2 order, magnitude, rounded]
  exact ⟨r, uf, delivers, rfl⟩

end Rem

end FpFormat

/-- Settles O35: the statement's truncated quotient and its developed part are those of the remainder. -/
theorem floatingPointRemainderIsExact : Obligations.FloatingPointRemainderIsExact := by
  intro t rc k src dsrc f
  have hf : f.HoldsIntegers := fpFormat_holdsIntegers t
  refine ⟨f.rem_of_invalid rc k, f.rem_of_isInf rc k hf, fun hs h0 hd => ?_⟩
  intro q truncated size taken v
  have taken_eq : developed Config.remStep (truncate (f.val dsrc / f.val src)).natAbs = taken := developed_eq _ _
  have value := f.sub_developed_mul Config.remStep src dsrc
  rw [taken_eq] at value
  exact f.rem_delivers rc k hf (fpFormat_fracBits_ne_zero t) hs h0 hd value

end Sys2Proof.Machine
end

section
/-! SUPPORT. Branches, jumps, calls and returns (O39 to O41), and the REPEAT prefixes (O42): 44 R290 to R307, R310,
R313. -/

namespace Sys2Proof.Machine

/-! ### Transfers of control (44 R290, R313) -/

section Transfers

variable {regs : List Reg} {bytes : Nat → Bool} {stk : Bool} {s t : State}

/-- What a transfer has touched since it cleared PS.REP, and then the PC and the record of stores, which it sets. -/
theorem State.Touches.sameBut_transfer (h : State.Touches regs bytes stk { s with ps := Ps.withRep s.ps 0 } t)
    (pc : Word) (dirty : List (Nat × Nat)) :
    State.SameBut regs bytes 0xC0000000 stk s { t with pc := pc, dirty := dirty } :=
  { h with
    status := (congrArg (· &&& ~~~0xC0000000#32) h.ps).trans (withRep_and s.ps 0)
    agents := fun e => { h.agents e with } }

/-- A transfer that ends so goes on at its target, and fetch sees all earlier stores (20 R76). -/
theorem continues_of_jumpTo {i : Instr} (h : State.Touches regs bytes stk { s with ps := Ps.withRep s.ps 0 } t)
    {pc : Word} (he : exec i s = finish s (.ok () (t.jumpTo pc))) :
    Continues i s { t with pc := pc, dirty := [] } regs bytes 0xC0000000 stk :=
  continues_of_finish (h.sameBut_transfer pc []) he

/-- One that does not transfer goes on behind its bytes, whatever PS.REP was (44 R312, R313). -/
theorem continues_of_advance {i : Instr} (h : State.Touches regs bytes stk { s with ps := Ps.withRep s.ps 0 } t)
    {n : Nat} (he : exec i s = finish s (.ok () (t.advance n))) :
    Continues i s { t with pc := s.pc + BitVec.ofNat 32 n } regs bytes 0xC0000000 stk := by
  have next : t.following n = s.pc + BitVec.ofNat 32 n := by
    rw [State.following, h.ps, h.pc, Ps.rep_withRep, if_pos rfl]
  rw [State.advance, next] at he
  exact continues_of_finish (h.sameBut_transfer _ t.dirty) he

end Transfers

/-! ### Conditional branches (44 R290 to R303) -/

/-- A condition that PS.REP does not enter. -/
def IgnoresRep (cond : Word → Bool) : Prop := ∀ ps, cond (Ps.withRep ps 0) = cond ps

theorem getLsbD_withRep_of_lt (ps : Word) (m : BitVec 2) {j : Nat} (hj : j < 30) :
    (Ps.withRep ps m).getLsbD j = ps.getLsbD j := by
  rw [getLsbD_withRep, if_neg (by omega), if_neg (by omega)]

@[simp] theorem Ps.u_withRep (ps : Word) (m : BitVec 2) : Ps.u (Ps.withRep ps m) = Ps.u ps :=
  getLsbD_withRep_of_lt ps m (by decide)

/-- The three ends of a branch whose target can be evaluated. -/
theorem branches_of_exec {mk : Mode .address → Instr} {signed : Bool} {cond : Word → Bool}
    (he : ∀ src s, exec (mk src) s = branch (mk src).length signed cond src s) (hc : IgnoresRep cond) :
    Branches mk signed cond := by
  intro src s s1 target ha
  have touched := addressOf_touches ha
  have unordered : Ps.u s1.ps = Ps.u s.ps := by rw [touched.ps, Ps.u_withRep]
  have taken : cond s1.ps = cond s.ps := by rw [touched.ps, hc]
  have run := he src s
  simp only [branch, ha, Res.ok_bind, unordered, taken] at run
  refine ⟨fun hu => ⟨?_, touched.ps, touched.fr⟩, fun hu hs => ?_⟩
  · rw [if_neg (by simp [hu])] at run
    split
    · rename_i h
      rw [if_pos h] at run
      exact continues_of_jumpTo touched run
    · rename_i h
      rw [if_neg h] at run
      exact continues_of_advance touched run
  · rw [if_pos hu] at run
    rw [run]
    exact finish_exc hs

/-- Settles O39: every branch is the shape `branch`, and its condition reads bits 0 to 4 of PS. -/
theorem conditionalBranches : Obligations.ConditionalBranches := by
  refine ⟨?_, ?_, ?_, ?_, ?_, ?_, ?_, ?_, ?_, ?_, ?_, ?_⟩
  all_goals exact branches_of_exec (fun _ _ => rfl) fun ps => by simp only [getLsbD_withRep_of_lt, Nat.reduceLT]

/-! ### JMP and CALL (44 R304, R305) -/

theorem exec_jmp {src : Mode .address} {s s1 : State} {target : Word}
    (ha : addressOf s.sp src { s with ps := Ps.withRep s.ps 0 } = .ok target s1) :
    exec (.jmp src) s = .next { s1 with pc := target, dirty := [], romActive := false } := by
  have sp : s1.sp = s.sp := (addressOf_touches ha).sp rfl
  simp only [exec, execJmp, ha, Res.ok_bind]
  exact finish_ok (by rw [State.jumpTo, sp, crossed_self])

/-- The return address depends on PS as it was before the CALL cleared PS.REP. -/
theorem exec_call {src : Mode .address} {s s1 s2 : State} {target : Word}
    (ha : addressOf s.sp src { s with ps := Ps.withRep s.ps 0 } = .ok target s1)
    (hw : push (if Ps.rep s.ps = 0 then s.pc + BitVec.ofNat 32 (Instr.call src).length else s.pc - 2) s1 = .ok () s2) :
    exec (.call src) s = finish s (.ok () (s2.jumpTo target)) := by
  simp only [exec, execCall, ha, hw, Res.ok_bind]

/-- Settles O40: the target is evaluated first, which leaves SP for the push. -/
theorem jumpAndCall : Obligations.JumpAndCall := by
  refine ⟨fun src s s1 target ha => ?_, fun src s s1 s2 target ha => ?_⟩
  · have touched := addressOf_touches ha
    exact ⟨exec_jmp ha, touched.sameBut_transfer s1.pc s1.dirty, touched.fr⟩
  · intro ret hw
    have evaluated := addressOf_touches ha
    have sp : s1.sp = s.sp := evaluated.sp rfl
    have stored := writeMem_touches hw
    have touched := ((evaluated.trans (s1.touches_sp (s.sp - 4))).trans stored).mono (r2 := modeRegisters src)
      (b2 := fun x => decide ((s.sp - 4).toNat ≤ x) && decide (x < (s.sp - 4).toNat + 4)) (k2 := true)
      (by simp) (by simp) (by simp)
    have pushed : push ret s1 = .ok () s2 := by rw [push, sp, hw]
    exact ⟨continues_of_jumpTo touched (exec_call ha pushed), evaluated.ps, stored.ps, stored.sp rfl, touched.fr⟩

/-! ### RET and RETP (44 R306, R307) -/

/-- Settles O41: a pop reads where SP stands and leaves it for the step by 4. -/
theorem returnsPopTheAddress : Obligations.ReturnsPopTheAddress := by
  refine ⟨fun s s1 w hr => ?_, fun src s s1 s2 v w hv hr => ?_⟩
  · have read := readMem_touches hr [] (fun _ => false) true
    have sp : s1.sp = s.sp := (readMem_sameCore hr).sp
    refine ⟨continues_of_jumpTo (read.trans (s1.touches_sp (s.sp + 4))) ?_, read.ps, read.fr⟩
    rw [← sp]
    simp only [exec, execRet, pop, hr, Res.ok_bind]
  · have read := (readField_touches hv).trans (readMem_touches hr [] (fun _ => false) true)
    have sp : s2.sp = s1.sp := (readMem_sameCore hr).sp
    have touched := (read.trans (s2.touches_sp (s1.sp + 4 + v))).mono (r2 := modeRegisters src) (b2 := fun _ => false)
      (k2 := true) (by simp) (by simp) (by simp)
    refine ⟨continues_of_jumpTo touched ?_, read.ps, read.fr⟩
    rw [← sp]
    simp only [exec, execRetp, hv, pop, hr, Res.ok_bind]

/-! ### The REPEAT prefixes (44 R310) -/

/-- Every bit of PS after PS.REPREG is written (10 R19). -/
theorem getLsbD_withRepReg (ps : Word) (r : Reg) (j : Nat) :
    (Ps.withRepReg ps r).getLsbD j = if 26 ≤ j ∧ j < 30 then r.val.testBit (j - 26) else ps.getLsbD j := by
  have mask : ∀ j < 32, (0x3C000000#32).getLsbD j = decide (26 ≤ j ∧ j < 30) := by decide
  have value : (r.val * 2 ^ 26).testBit j = (decide (26 ≤ j) && r.val.testBit (j - 26)) := Nat.testBit_mul_two_pow ..
  have high (h : 30 ≤ j) : r.val.testBit (j - 26) = false :=
    Nat.testBit_lt_two_pow (r.isLt.trans_le (Nat.pow_le_pow_right (n := 2) (i := 4) (by decide) (by omega)))
  rw [Ps.withRepReg, BitVec.getLsbD_or, BitVec.getLsbD_and, BitVec.getLsbD_not (x := 0x3C000000#32),
    BitVec.getLsbD_ofNat 32 (r.val * 2 ^ 26), value]
  by_cases hj : j < 32
  · rw [mask j hj]
    by_cases low : 26 ≤ j
    · by_cases top : j < 30
      · simp [hj, low, top]
      · simp [hj, low, top, high (Nat.le_of_not_lt top)]
    · simp [hj, low]
  · rw [BitVec.getLsbD_of_ge ps j (Nat.le_of_not_lt hj)]
    simp [hj, show ¬ j < 30 by omega]

/-- PS.REPREG is bits 26 to 29 (10 R19). -/
theorem Ps.repReg_val (ps : Word) : (Ps.repReg ps).val = (ps.extractLsb' 26 4).toNat := by
  rw [BitVec.extractLsb'_toNat, Nat.shiftRight_eq_div_pow]
  rfl

/-- PS after a REPEAT that presets Z to z. -/
def prefixedPs (ps : Word) (z : Bool) (r : Reg) (mode : BitVec 2) : Word :=
  Ps.withRep (Ps.withRepReg (setBit ps 2 z) r) mode

theorem getLsbD_prefixedPs (ps : Word) (z : Bool) (r : Reg) (mode : BitVec 2) (j : Nat) :
    (prefixedPs ps z r mode).getLsbD j =
      if j = 31 then mode.getLsbD 1 else if j = 30 then mode.getLsbD 0
      else if 26 ≤ j ∧ j < 30 then r.val.testBit (j - 26) else if j = 2 then z else ps.getLsbD j := by
  simp [prefixedPs, getLsbD_withRep, getLsbD_withRepReg, getLsbD_setBit]

theorem rep_prefixedPs (ps : Word) (z : Bool) (r : Reg) (mode : BitVec 2) :
    Ps.rep (prefixedPs ps z r mode) = mode := Ps.rep_withRep _ _

theorem repReg_prefixedPs (ps : Word) (z : Bool) (r : Reg) (mode : BitVec 2) :
    Ps.repReg (prefixedPs ps z r mode) = r := by
  apply Fin.ext
  have field : (prefixedPs ps z r mode).extractLsb' 26 4 = BitVec.ofNat 4 r.val := by
    apply BitVec.eq_of_getLsbD_eq
    intro j hj
    have inside : 26 + j < 30 := by omega
    simp [getLsbD_prefixedPs, hj, inside, inside.ne, show 26 + j ≠ 31 by omega]
  rw [Ps.repReg_val, field, BitVec.toNat_ofNat, Nat.mod_eq_of_lt r.isLt]

theorem z_prefixedPs (ps : Word) (z : Bool) (r : Reg) (mode : BitVec 2) : Ps.z (prefixedPs ps z r mode) = z := by
  rw [Ps.z, getLsbD_prefixedPs]
  rfl

/-- The other bits stay. -/
theorem prefixedPs_and (ps : Word) (z : Bool) (r : Reg) (mode : BitVec 2) :
    prefixedPs ps z r mode &&& 0x03FFFFFB = ps &&& 0x03FFFFFB := by
  apply BitVec.eq_of_getLsbD_eq
  intro j hj
  rw [BitVec.getLsbD_and, BitVec.getLsbD_and, getLsbD_prefixedPs]
  by_cases kept : j < 26 ∧ j ≠ 2
  · simp [kept.2, show j ≠ 31 ∧ j ≠ 30 ∧ ¬26 ≤ j by omega]
  · rw [(by decide : ∀ j < 32, ¬(j < 26 ∧ j ≠ 2) → (0x03FFFFFB : Word).getLsbD j = false) j hj kept,
      Bool.and_false, Bool.and_false]

section RepeatPrefix

variable {mk : Mode .address → Instr} {mode : BitVec 2} {z : Bool → Bool} {s0 s : State}

/-- REP, REPZ or REPNZ with Register Direct goes on behind its two bytes. -/
theorem exec_repeatPrefix_register (he : ∀ src s, exec (mk src) s = repeatPrefix (mk src).length mode z src s)
    {r : Reg} (hl : (mk (.register r)).length = 2) (hf : fetchAccess s0.nextByte 1 s0 = .ok () s) :
    exec (mk (.register r)) s0 =
      .next { s with ps := prefixedPs s.ps (z (Ps.z s.ps)) r mode, pc := s.pc + 2 } := by
  have sp : s.sp = s0.sp := (fetchAccess_eq_ok hf).1.sp
  have place : locateField .reg s0.sp (.register r : Mode .address) s0 = .ok (.reg r) s :=
    locateField_of_size_one rfl hf rfl
  rw [he, repeatPrefix, place, Res.ok_bind, hl]
  exact finish_ok (by rw [sp, crossed_self])

/-- Every other mode of a field that is there is illegal for it. -/
theorem modeIllegal_reg {m : Mode .address} (hr : ∀ r, m ≠ .register r) (ht : m ≠ .truncated none) :
    modeIllegal .reg m = true := by
  cases m with
  | register r => exact absurd rfl (hr r)
  | truncated b =>
    cases b with
    | none => exact absurd rfl ht
    | some b => rfl
  | _ => rfl

theorem exec_repeatPrefix_illegal (he : ∀ src s, exec (mk src) s = repeatPrefix (mk src).length mode z src s)
    {m : Mode .address} (hm : modeIllegal .reg m = true) (hf : fetchAccess s0.nextByte 1 s0 = .ok () s) :
    exec (mk m) s0 = finish s0 (.exc 16 s) := by
  rw [he, repeatPrefix, locateField_of_illegal hm hf, Res.exc_bind]

end RepeatPrefix

/-- Settles O42: the three prefixes are one shape. -/
theorem repeatPrefixesSetTheMode : Obligations.RepeatPrefixesSetTheMode := by
  unfold Obligations.RepeatPrefixesSetTheMode
  intro sets
  have prefixed (mk : Mode .address → Instr) (mode : BitVec 2) (z : Bool → Bool)
      (he : ∀ src s, exec (mk src) s = repeatPrefix (mk src).length mode z src s)
      (hl : ∀ r, (mk (.register r)).length = 2) : sets mk mode z :=
    ⟨fun s0 s r hf => ⟨_, exec_repeatPrefix_register he (hl r) hf, rep_prefixedPs _ _ _ _, repReg_prefixedPs _ _ _ _,
      z_prefixedPs _ _ _ _, prefixedPs_and _ _ _ _⟩,
      fun s0 s src hr ht hf => exec_repeatPrefix_illegal he (modeIllegal_reg hr ht) hf⟩
  exact ⟨prefixed .rep 1 (fun z => z) (fun _ _ => rfl) fun _ => rfl,
    prefixed .repz 2 (fun _ => true) (fun _ _ => rfl) fun _ => rfl,
    prefixed .repnz 3 (fun _ => false) (fun _ _ => rfl) fun _ => rfl⟩

end Sys2Proof.Machine
end

section
/-! SUPPORT. The pre-test of a repeated instruction (O5): what a REPEAT may not govern, what its fields are measured for,
and how it ends or goes on (44 R311, R313, R315; 30 R114, R123). -/

namespace Sys2Proof.Machine

/-! ### Fields that are legal and whole (30 R114, R123) -/

/-- A field that is neither illegal nor cut off by the end of memory. -/
def isSound (f : Field) : Bool := !modeIllegal f.access f.mode && !f.mode.isTruncated

theorem isSound_iff (f : Field) :
    isSound f = true ↔ modeIllegal f.access f.mode = false ∧ f.mode.isTruncated = false := by
  rw [isSound, Bool.and_eq_true, Bool.not_eq_true', Bool.not_eq_true']

section Fields

variable {f : Field} {fs : List Field}

theorem fieldsBeforeFault_of_sound (h : ∀ f ∈ fs, isSound f = true) : fieldsBeforeFault fs = fs :=
  List.takeWhile_eq_self_iff.2 h

theorem fieldsBeforeFault_cons (hf : isSound f = true) : fieldsBeforeFault (f :: fs) = f :: fieldsBeforeFault fs :=
  List.takeWhile_cons_of_pos hf

theorem fieldsBeforeFault_cons_of_not_sound (hf : ¬isSound f = true) : fieldsBeforeFault (f :: fs) = [] :=
  List.takeWhile_cons_of_neg hf

theorem measureFault_cons (hf : isSound f = true) : measureFault (f :: fs) = measureFault fs := by
  obtain ⟨legal, whole⟩ := (isSound_iff f).1 hf
  simp [measureFault, legal, whole]

theorem measureFault_of_sound (h : ∀ f ∈ fs, isSound f = true) : measureFault fs = none := by
  induction fs with
  | nil => rfl
  | cons f fs ih =>
    rw [measureFault_cons (h f List.mem_cons_self)]
    exact ih fun g hg => h g (List.mem_cons_of_mem f hg)

/-- The first field that is not sound is the fault: illegal before cut off. -/
theorem measureFault_cons_of_not_sound (hf : ¬isSound f = true) :
    measureFault (f :: fs) = some (if modeIllegal f.access f.mode then 16 else 11) := by
  rw [isSound_iff] at hf
  cases illegal : modeIllegal f.access f.mode
  · have cut : f.mode.isTruncated = true := by simpa [illegal] using hf
    simp [measureFault, illegal, cut]
  · simp [measureFault, illegal]

end Fields

/-! ### Instructions by name (44 R315; 70 R482) -/

/-- The instructions that a REPEAT may not govern (93 U16). -/
theorem notRepeatable_iff (i : Instr) : notRepeatable i = true ↔
    (∃ m, i = .rep m ∨ i = .repz m ∨ i = .repnz m) ∨ (∃ m, i = .trap m) ∨
      i = .bkpt ∨ i = .reti ∨ i = .rett ∨ i = .wait := by
  unfold notRepeatable
  split <;> simp_all

theorem isFp_iff (t : OpType) : t.isFp = true ↔ t = .real ∨ t = .long := by
  cases t <;> decide

/-- The instructions of the floating-point unit (70 R482). -/
theorem usesFloatUnit_iff (i : Instr) : usesFloatUnit i = true ↔
    (∃ f ∈ i.fields, f.type = .real ∨ f.type = .long) ∨
      (∃ a b, i = .mulb a b ∨ i = .divb a b ∨ i = .dvrb a b ∨ i = .remb a b) ∨
      (∃ a b, i = .mulh a b ∨ i = .divh a b ∨ i = .dvrh a b ∨ i = .remh a b) ∨
      (∃ a b, i = .mulw a b ∨ i = .divw a b ∨ i = .dvrw a b ∨ i = .remw a b) := by
  have fields : (i.fields.any fun f => f.type.isFp) = true ↔ ∃ f ∈ i.fields, f.type = .real ∨ f.type = .long := by
    simp only [List.any_eq_true, isFp_iff]
  rw [← fields]
  clear fields
  unfold usesFloatUnit
  split <;> simp_all

/-! ### The pre-test (44 R311) -/

section PreTest

variable {i : Instr} {s u : State}

theorem runRepeated_of_notRepeatable (hi : notRepeatable i = true) :
    runRepeated i s = .refused .repeatBeforeControl := by
  rw [runRepeated, repeatRefusal, if_pos hi]

theorem runRepeated_of_used (hi : notRepeatable i = false)
    (hu : ∃ f ∈ fieldsBeforeFault i.fields, modeUses (Ps.repReg s.ps) f.mode = true) :
    runRepeated i s = .refused .repeatCountUsed := by
  rw [runRepeated, repeatRefusal, if_neg (by simp [hi]), if_pos (List.any_eq_true.2 hu)]

/-- The pre-test of an instruction that is not refused for itself or for its fields. -/
theorem runRepeated_of_unused (hi : notRepeatable i = false)
    (hu : ∀ f ∈ fieldsBeforeFault i.fields, modeUses (Ps.repReg s.ps) f.mode = false) :
    runRepeated i s =
      if (Ps.rep s.ps).getLsbD 1 && usesFloatUnit i then .refused .repeatBeforeFpUnit
      else if repeatEnds s then skipRepeated i s
      else exec i (s.setReg (Ps.repReg s.ps) (s.reg (Ps.repReg s.ps) - 1)) := by
  have unused : ¬((fieldsBeforeFault i.fields).any fun f => modeUses (Ps.repReg s.ps) f.mode) = true := by
    simpa using hu
  rw [runRepeated, repeatRefusal, if_neg (by simp [hi]), if_neg unused]
  cases (Ps.rep s.ps).getLsbD 1 && usesFloatUnit i <;> rfl

/-- A skipped instruction whose fields are sound goes on behind them (44 R311). -/
theorem skipRepeated_of_measured (hf : fetchFields i.fields { s with ps := Ps.withRep s.ps 0 } = .ok () u)
    (hm : measureFault i.fields = none) :
    skipRepeated i s = .next { u with pc := s.pc + BitVec.ofNat 32 i.length } := by
  have core := (fetchFields_eq_ok hf).1
  have next : u.following i.length = s.pc + BitVec.ofNat 32 i.length := by
    rw [State.following, core.ps, core.pc, Ps.rep_withRep, if_pos rfl]
  simp only [skipRepeated, hf, Res.ok_bind, hm, State.advance, next]
  exact finish_ok (by rw [core.sp, crossed_self])

theorem skipRepeated_of_fault {n : Nat} (hf : fetchFields i.fields { s with ps := Ps.withRep s.ps 0 } = .ok () u)
    (hm : measureFault i.fields = some n) : skipRepeated i s = finish s (.exc n u) := by
  simp only [skipRepeated, hf, Res.ok_bind, hm]

theorem repeatEnds_iff (s : State) : repeatEnds s = true ↔
    (Ps.rep s.ps = 2 ∧ Ps.z s.ps = false) ∨ (Ps.rep s.ps = 3 ∧ Ps.z s.ps = true) ∨ s.reg (Ps.repReg s.ps) = 0 := by
  simp [repeatEnds, or_assoc]

/-- REPZ and REPNZ are the modes whose high bit is 1 (10 R19). -/
theorem getLsbD_one_iff (m : BitVec 2) : m.getLsbD 1 = true ↔ m = 2 ∨ m = 3 := by
  revert m
  decide

end PreTest

/-- Settles O5: the model's names for the terms of the statement, and then the pre-test of each kind of field. -/
theorem repeatPreTest : Obligations.RepeatPreTest := by
  intro i s c ends uses control floatUnit early good skipped counted fetched faultsAt
  have control_iff : notRepeatable i = true ↔ control := notRepeatable_iff i
  have free (h : ¬control) : notRepeatable i = false := by rwa [← control_iff, Bool.not_eq_true] at h
  have ends_iff : repeatEnds s = true ↔ ends := repeatEnds_iff s
  have good_iff (f : Field) : isSound f = true ↔ good f := isSound_iff f
  have uses_iff {t : OpType} (m : Mode t) : modeUses c m = true ↔ uses m := by
    cases m <;> simp [modeUses, uses]
  have early_iff : ((Ps.rep s.ps).getLsbD 1 && usesFloatUnit i) = true ↔ early := by
    rw [Bool.and_eq_true, getLsbD_one_iff, usesFloatUnit_iff]
  have unused (fs : List Field) (h : ∀ f ∈ fs, ¬uses f.mode) : ∀ f ∈ fs, modeUses c f.mode = false :=
    fun f hf => Bool.eq_false_iff.2 (mt (uses_iff f.mode).1 (h f hf))
  have run (hc : ¬control) (hu : ∀ f ∈ fieldsBeforeFault i.fields, modeUses c f.mode = false) :
      (early → runRepeated i s = .refused .repeatBeforeFpUnit) ∧
        (¬early → ¬ends → runRepeated i s = exec i counted) ∧
        (¬early → ends → runRepeated i s = skipRepeated i s) := by
    rw [runRepeated_of_unused (free hc) hu]
    refine ⟨fun he => if_pos (early_iff.2 he), fun he hn => ?_, fun he hn => ?_⟩
    · rw [if_neg (mt early_iff.1 he), if_neg (mt ends_iff.1 hn)]
    · rw [if_neg (mt early_iff.1 he), if_pos (ends_iff.2 hn)]
  have faults (f : Field) (hc : ¬control) (hu : ∀ f ∈ fieldsBeforeFault i.fields, modeUses c f.mode = false)
      (hm : measureFault i.fields = some (if modeIllegal f.access f.mode then 16 else 11)) : faultsAt f := by
    obtain ⟨refused, counts, skips⟩ := run hc hu
    exact ⟨refused, counts, fun he hn u hf => (skips he hn).trans (skipRepeated_of_fault hf hm)⟩
  refine ⟨fun hd => fetchFields_of_quiet _ hd, fun hc => runRepeated_of_notRepeatable (control_iff.2 hc),
    fun hc hg => ?_, fun f fs hc hi hf => ?_, fun f g hc hi hf hg => ⟨fun hu => ?_, fun hu => ?_⟩⟩
  · have sound (f : Field) (hf : f ∈ i.fields) := (good_iff f).2 (hg f hf)
    have whole : fieldsBeforeFault i.fields = i.fields := fieldsBeforeFault_of_sound sound
    refine ⟨fun ⟨f, hf, hu⟩ => ?_, fun hu => ?_⟩
    · exact runRepeated_of_used (free hc) ⟨f, whole.symm ▸ hf, (uses_iff f.mode).2 hu⟩
    · obtain ⟨refused, counts, skips⟩ := run hc (whole.symm ▸ unused _ hu)
      exact ⟨refused, fun he hn u hf =>
        (skips he hn).trans (skipRepeated_of_measured hf (measureFault_of_sound sound)), counts⟩
  · have fault := mt (good_iff f).1 hf
    refine faults f hc ?_ ?_
    · rw [hi, fieldsBeforeFault_cons_of_not_sound fault]
      exact List.forall_mem_nil _
    · rw [hi, measureFault_cons_of_not_sound fault]
  · have first := (good_iff f).2 hf
    refine runRepeated_of_used (free hc) ⟨f, ?_, (uses_iff f.mode).2 hu⟩
    rw [hi, fieldsBeforeFault_cons first]
    exact List.mem_cons_self
  · have first := (good_iff f).2 hf
    have fault := mt (good_iff g).1 hg
    refine faults g hc ?_ ?_
    · rw [hi, fieldsBeforeFault_cons first, fieldsBeforeFault_cons_of_not_sound fault]
      exact unused [f] (by simpa using hu)
    · rw [hi, measureFault_cons first, measureFault_cons_of_not_sound fault]

end Sys2Proof.Machine
end

section
/-! SUPPORT. Instructions that go on with one bit changed (O43), processor registers (O44, O45), and WAIT and RSET
(O49): 10 R13, R20, R26 to R31; 45 R330 to R345. -/

namespace Sys2Proof.Machine

/-! ### Going on behind an instruction (44 R312) -/

section GoesOn

variable {s t : State} {n : Nat}

/-- Where the next instruction is depends on PC and PS.REP only. -/
theorem State.following_eq (hpc : t.pc = s.pc) (hrep : Ps.rep t.ps = Ps.rep s.ps) : t.following n = s.following n := by
  rw [State.following, State.following, hpc, hrep]

/-- An instruction that goes on, from a state with the PC and PS.REP of its beginning. -/
theorem finish_advance (hpc : t.pc = s.pc) (hrep : Ps.rep t.ps = Ps.rep s.ps) (hc : crossed s.sp t.sp = false) :
    finish s (.ok () (t.advance n)) = .next { t with pc := s.following n } := by
  rw [State.advance, State.following_eq hpc hrep]
  exact finish_ok hc

end GoesOn

/-! ### NOP, CLC, STC, CMC, EI, DI, ERON, EROF (45 R330 to R339) -/

/-- A bit below PS.REP is none of its own (10 R19). -/
theorem Ps.rep_setBit (ps : Word) {i : Nat} (b : Bool) (hi : i < 30) : Ps.rep (setBit ps i b) = Ps.rep ps := by
  apply BitVec.eq_of_getLsbD_eq
  intro j hj
  rw [Ps.rep, Ps.rep, BitVec.getLsbD_extractLsb', BitVec.getLsbD_extractLsb', getLsbD_setBit, if_neg (by omega)]

/-- To complement a bit is to exchange it with 1. -/
theorem setBit_zero_not (x : Word) : setBit x 0 (!x.getLsbD 0) = x ^^^ 1 := by
  apply BitVec.eq_of_getLsbD_eq
  intro j hj
  have one : (1 : Word).getLsbD j = decide (j = 0) := by simp
  rw [getLsbD_setBit, BitVec.getLsbD_xor, one]
  by_cases h : j = 0
  · simp [h]
  · simp [h]

/-- One bit of PS but for PS.REP is written, and the instruction goes on. -/
theorem finish_setBit_advance (s : State) {i : Nat} (b : Bool) (hi : i < 30) (n : Nat) :
    finish s (.ok () ({ s with ps := setBit s.ps i b }.advance n)) =
      .next { s with ps := setBit s.ps i b, pc := s.following n } :=
  finish_advance (t := { s with ps := setBit s.ps i b }) rfl (Ps.rep_setBit s.ps b hi) (crossed_self s.sp)

/-- Settles O43: each writes nothing, one bit of PS, or the ERROR flag, and goes on. -/
theorem flagInstructionsChangeOneBit : Obligations.FlagInstructionsChangeOneBit := by
  intro s
  have same := crossed_self s.sp
  refine ⟨finish_advance rfl rfl same, ?_, ?_, ?_, ?_, ?_, ?_, ?_⟩
  · exact finish_setBit_advance s false (by decide) 1
  · exact finish_setBit_advance s true (by decide) 1
  · rw [← setBit_zero_not]
    exact finish_setBit_advance s (!Ps.c s.ps) (by decide) 1
  · exact finish_setBit_advance s true (by decide) 1
  · exact finish_setBit_advance s false (by decide) 1
  · exact finish_advance (t := { s with errorFlag := true }) rfl rfl same
  · exact finish_advance (t := { s with errorFlag := false }) rfl rfl same

/-! ### LDPR (45 R340) -/

section Ldpr

variable {src : Mode .word} {des : Mode .byte} {s s2 t : State} {v : Word} {k : Byte}

/-- FR, OR, IR, IP, PE and IO are read only, and a number from 13 on is no register (93 U12; log 20). -/
theorem loadProcessorRegister_of_readOnly (hk : k = 2 ∨ k = 6 ∨ k = 7 ∨ 10 ≤ k.toNat) (v : Word) (s : State) :
    loadProcessorRegister k v s = .ok () s := by
  have number : k.toNat = 2 ∨ k.toNat = 6 ∨ k.toNat = 7 ∨ 10 ≤ k.toNat := by
    rcases hk with rfl | rfl | rfl | h
    · exact .inl rfl
    · exact .inr (.inl rfl)
    · exact .inr (.inr (.inl rfl))
    · exact .inr (.inr (.inr h))
  unfold loadProcessorRegister
  split
  case h_8 => rfl
  all_goals omega

theorem exec_ldpr_of_loaded (h : Values src des s v k s2) (hl : loadProcessorRegister k v s2 = .ok () t) :
    exec (.ldpr src des) s = finish s (.ok () (t.advance (Instr.ldpr src des).length)) := by
  obtain ⟨s1, read, read2⟩ := h
  simp only [exec, execLdpr, read, read2, hl, Res.ok_bind]

theorem exec_ldpr_of_refused {r : Refusal} (h : Values src des s v k s2)
    (hl : loadProcessorRegister k v s2 = .refused r) : exec (.ldpr src des) s = .refused r := by
  obtain ⟨s1, read, read2⟩ := h
  simp only [exec, execLdpr, read, read2, hl, Res.ok_bind, Res.refused_bind, finish_refused]

/-- A load of a register other than SP and PS goes on. -/
theorem exec_ldpr_goes_on (h : Values src des s v k s2) (hl : loadProcessorRegister k v s2 = .ok () t)
    (hpc : t.pc = s2.pc) (hps : t.ps = s2.ps) (hsp : t.sp = s2.sp) (hc : crossed s.sp s2.sp = false) :
    exec (.ldpr src des) s = .next { t with pc := s.following (Instr.ldpr src des).length } := by
  have touched := h.touches
  rw [exec_ldpr_of_loaded h hl]
  exact finish_advance (hpc.trans touched.pc) (by rw [hps, touched.ps]) (by rw [hsp, hc])

/-- A load of SP goes on, with Stack Overflow after it. -/
theorem continues_ldpr_sp (h : Values src des s v 0 s2) :
    Continues (.ldpr src des) s { s2 with sp := v, pc := s.following (Instr.ldpr src des).length }
      (modeRegisters src ++ modeRegisters des) (fun _ => false) 0 true := by
  have touched := (h.touches.trans (s2.touches_sp v)).mono (r2 := modeRegisters src ++ modeRegisters des)
    (b2 := fun _ => false) (k2 := true) (by simp) (by simp) (by simp)
  refine continues_of_finish (w := ()) (touched.sameButAll (fr' := s.fr) (by rw [touched.ps])) ?_
  rw [exec_ldpr_of_loaded h rfl, State.advance, touched.following]

/-- Outside a REPEAT the load of PS is that of an NPS (10 R20). -/
theorem loadProcessorRegister_ps (v : Word) (hs : Ps.rep s.ps = 0) : loadProcessorRegister 1 v s = loadPs v s :=
  if_neg (not_not_intro hs)

/-- Under one it is refused (93 U16). -/
theorem loadProcessorRegister_ps_of_repeat (v : Word) (hs : Ps.rep s.ps ≠ 0) :
    loadProcessorRegister 1 v s = .refused .repeatBeforeControl :=
  if_pos hs

/-- What the load of PS refuses, a reserved bit before a REPEAT (93 U18, U4). -/
theorem loadPs_of_reserved (s : State) (hl : Ps.legal v = false) : loadPs v s = .refused .reservedPsBits := by
  simp only [loadPs, hl, Bool.not_false, if_true]

theorem loadPs_of_repeat (s : State) (hl : Ps.legal v = true) (hr : Ps.rep v ≠ 0) :
    loadPs v s = .refused .repeatWithoutPrefix := by
  simp only [loadPs, hl, Bool.not_true, Bool.false_eq_true, if_false]
  exact if_pos hr

/-- A value with no reserved bit and no REPEAT is loaded into PS outside a REPEAT, and the LDPR goes on (10 R20). -/
theorem exec_ldpr_ps (h : Values src des s v 1 s2) (hs : Ps.rep s.ps = 0) (hl : Ps.legal v = true)
    (hv : Ps.rep v = 0) (hc : crossed s.sp s2.sp = false) : exec (.ldpr src des) s =
      .next { s2 with ps := v, pc := s.pc + BitVec.ofNat 32 (Instr.ldpr src des).length } := by
  have touched := h.touches
  have loaded : loadProcessorRegister 1 v s2 = .ok () { s2 with ps := v } := by
    rw [loadProcessorRegister_ps v (by rw [touched.ps, hs])]
    exact loadPs_eq_ok.2 ⟨hl, hv, rfl⟩
  have next : s.following (Instr.ldpr src des).length = s.pc + BitVec.ofNat 32 (Instr.ldpr src des).length := if_pos hs
  rw [exec_ldpr_of_loaded h loaded, ← next]
  exact finish_advance (t := { s2 with ps := v }) touched.pc (hv.trans hs.symm) hc

end Ldpr

/-- Settles O44: what each number loads, in the state that reading the two operands leaves. (The model's function has
the obligation's own name.) -/
theorem loadProcessorRegisterByNumber : Obligations.LoadProcessorRegister := by
  refine ⟨fun src des s s2 v k h => ?_, fun src des s s2 v h => ?_⟩
  · have touched := h.touches
    refine ⟨touched.sameBut, touched.fr, ?_, fun hc => ⟨?_, ?_, ?_, ?_, ?_, fun hk =>
      exec_ldpr_goes_on h (loadProcessorRegister_of_readOnly hk v s2) rfl rfl rfl hc⟩⟩
    · rintro rfl
      exact continues_ldpr_sp h
    · rintro rfl
      rw [← touched.cr]
      exact exec_ldpr_goes_on h rfl rfl rfl rfl hc
    · rintro rfl
      rw [← touched.pi]
      exact exec_ldpr_goes_on h rfl rfl rfl rfl hc
    all_goals
      rintro rfl
      exact exec_ldpr_goes_on h rfl rfl rfl rfl hc
  · have ps : s2.ps = s.ps := h.touches.ps
    refine ⟨fun hs => ?_, fun hs hv => ?_, fun hs hv hr => ?_, fun hs hv hr hc => ?_⟩
    · exact exec_ldpr_of_refused h (loadProcessorRegister_ps_of_repeat v (by rwa [ps]))
    · refine exec_ldpr_of_refused h ((loadProcessorRegister_ps v (by rwa [ps])).trans (loadPs_of_reserved s2 ?_))
      exact Bool.eq_false_iff.2 (mt (legal_iff v).1 hv)
    · exact exec_ldpr_of_refused h
        ((loadProcessorRegister_ps v (by rwa [ps])).trans (loadPs_of_repeat s2 ((legal_iff v).2 hv) hr))
    · exact exec_ldpr_ps h hs ((legal_iff v).2 hv) hr hc

/-! ### STPR, and the port status registers (45 R341; 10 R26 to R31) -/

theorem portBit_injective {p q : PortIx} (h : portBit p = portBit q) : p = q := by
  revert p q
  decide

/-- Writing the bits of ports, one flag each, leaves the others. -/
theorem getLsbD_foldl_setBit (f : PortIx → Bool) (ps : List PortIx) (w : Word) {j : Nat}
    (hj : ∀ p ∈ ps, j ≠ portBit p) :
    (ps.foldl (fun w p => setBit w (portBit p) (f p)) w).getLsbD j = w.getLsbD j := by
  induction ps generalizing w with
  | nil => rfl
  | cons q ps ih =>
    rw [List.foldl_cons, ih _ fun p hp => hj p (List.mem_cons_of_mem q hp),
      (getLsbD_setBit_portBit w q (f q)).2 j (hj q List.mem_cons_self)]

/-- The bit of a port among them is its flag. -/
theorem getLsbD_foldl_setBit_portBit (f : PortIx → Bool) {ps : List PortIx} (w : Word) {p : PortIx} (hp : p ∈ ps) :
    (ps.foldl (fun w p => setBit w (portBit p) (f p)) w).getLsbD (portBit p) = f p := by
  induction ps generalizing w with
  | nil => cases hp
  | cons q ps ih =>
    rw [List.foldl_cons]
    by_cases later : p ∈ ps
    · exact ih _ later
    · obtain rfl : p = q := (List.mem_cons.1 hp).resolve_right later
      rw [getLsbD_foldl_setBit f ps _ fun q hq e => later (by rwa [portBit_injective e])]
      exact (getLsbD_setBit_portBit w p (f p)).1

/-- A port status register holds the flag of each port at its bit (10 R26). -/
theorem getLsbD_portFlags (f : PortIx → Bool) (p : PortIx) : (portFlags f).getLsbD (portBit p) = f p :=
  getLsbD_foldl_setBit_portBit f 0 (List.mem_finRange p)

/-- Its other bits are 0. -/
theorem getLsbD_portFlags_of_ne (f : PortIx → Bool) {j : Nat} (hj : ∀ p, j ≠ portBit p) :
    (portFlags f).getLsbD j = false :=
  (getLsbD_foldl_setBit f _ 0 fun p _ => hj p).trans BitVec.getLsbD_zero

/-- STPR goes on with the value stored and its flags written. -/
theorem endsInteger_stpr {src : Mode .byte} {des : Mode .word} {s s1 s2 s3 : State} {k : Byte} {p : Place} {v : Word}
    (hr : readField s.sp src s = .ok k s1) (ho : openWritten s.sp des s1 = .ok p s2)
    (hv : { s2 with sp := s.sp }.processorRegister k = v) (hw : writePlace .word p v s2 = .ok () s3) :
    EndsInteger (.stpr src des) s (s3.flagged (Ps.c s.ps) false (decide (v = 0)) (v.getLsbD 31)) false
      (modeRegisters src ++ modeRegisters des ++ placeRegisters .word p) (placeBytes .word p) 0x1F
      (isStk src || isStk des) := by
  have opened : Writes src des s k p s2 := ⟨s1, hr, ho⟩
  have touched := opened.touches
  have stored := touched.write hw
  refine ends_integer stored (by rw [stored.ps]; exact withCond_and _ _ _ _ _ _) (by simp [stored.ps])
    (by simp [stored.ps]) (by simp [stored.ps]) ?_
  rw [exec, execStpr, hr, Res.ok_bind, ho, Res.ok_bind, hv, storeInteger, touched.ps, logicResult_eq v, hw]
  rfl

/-- Settles O45: the register is read in the state that both fields leave, but for SP. -/
theorem storeProcessorRegister : Obligations.StoreProcessorRegister := by
  refine ⟨fun src des s s1 s2 s3 k p hr ho hw => endsInteger_stpr hr ho rfl hw, fun s => ?_, fun s j h10 h31 => ?_⟩
  · refine ⟨rfl, rfl, rfl, rfl, rfl, rfl, rfl, rfl, rfl, rfl, fun p j hj => ?_⟩
    obtain rfl : j = portBit p := by
      unfold portBit
      split <;> omega
    exact ⟨getLsbD_portFlags _ p, getLsbD_portFlags _ p, getLsbD_portFlags _ p⟩
  · have apart (p : PortIx) : j ≠ portBit p := by
      unfold portBit
      split <;> omega
    exact ⟨getLsbD_portFlags_of_ne _ apart, getLsbD_portFlags_of_ne _ apart, getLsbD_portFlags_of_ne _ apart⟩

/-! ### WAIT and RSET (45 R344, R345) -/

/-- Neither the choices to come nor the visits of a turn decide which interrupt is taken. -/
theorem State.nextInterrupt_withSchedule (s : State) (rest : List Event) (during : List (List Visit)) :
    ({ s with schedule := rest, during := during } : State).nextInterrupt = s.nextInterrupt := rfl

/-- An idle processor lets its turn pass, whatever the outcomes of accesses it does not make. -/
theorem processorTurn_of_idle (eccs : List Ecc) {s : State} (hs : s.stuck = false) (hn : s.nextInterrupt = none)
    (hw : s.waiting = true) : processorTurn eccs s = .next s := by
  simp only [processorTurn, activeTurn, hs, hn, hw, Bool.false_eq_true, if_false, if_true]

/-- Settles O49: an idle turn only takes its choice from the schedule, and RSET is `State.resetPorts`. -/
theorem waitIdlesAndResetClearsThePorts : Obligations.WaitIdlesAndResetClearsThePorts := by
  refine fun s => ⟨?_, fun hs hn hw => ⟨fun hq => ?_, fun eccs during rest hq => ?_⟩, ?_⟩
  · exact finish_advance (t := { s with waiting := true }) rfl rfl (crossed_self s.sp)
  · rw [step_of_schedule_nil hq]
    exact processorTurn_of_idle [] hs ((s.nextInterrupt_withSchedule s.schedule []).trans hn) hw
  · rw [step_of_schedule_processor hq]
    exact processorTurn_of_idle eccs hs ((s.nextInterrupt_withSchedule rest during).trans hn) hw
  · exact finish_advance (t := s.resetPorts) rfl rfl (crossed_self s.sp)

end Sys2Proof.Machine
end

section
/-! SUPPORT. Software interrupts (O46) and returns from interrupts (O47): 45 R333, R335, R342, R343; 60 R404, R405,
R416, R419. -/

namespace Sys2Proof.Machine

/-! ### TRAP and BKPT (45 R342, R343) -/

/-- An entry after an operand is read changes what that has touched and what the entry changes. -/
theorem State.Touches.entered_sameBut {regs : List Reg} {stk : Bool} {s s1 : State}
    (h : State.Touches regs (fun _ => false) stk s s1) (n : Nat) (q : Word) (hw : s.waiting = false) :
    State.SameBut regs (pushedEight s1) 0xFFFFFFFF true s (s1.entered n q) :=
  have entry := s1.entered_sameBut n q (h.waiting.trans hw)
  { h with
    sp := nofun
    status := and_no_bits _ _
    waiting := entry.waiting.trans h.waiting
    agents := fun e => (h.agents e).trans (entry.agents (h.agents e).during) }

/-- A software interrupt that can be entered goes on there; the check for Stack Overflow saves the address of the
instruction itself (60 R405, R416). -/
theorem softwareInterrupt_of_canEnter {s0 s : State} {len n : Nat} (h : s.canEnter n (s0.pc + BitVec.ofNat 32 len)) :
    softwareInterrupt s0 len n s = finish s0 (.ok () (s.entered n (s0.pc + BitVec.ofNat 32 len))) := by
  rw [softwareInterrupt, enterOnly_of_canEnter h]
  rfl

/-- Settles O46: the entry is made in the state that reading the operand leaves. -/
theorem trapAndBreakpointEnterTheirVector : Obligations.TrapAndBreakpointEnterTheirVector := by
  constructor
  · intro src s s1 n hr next h hw
    have touched := readField_touches hr
    have run : exec (.trap src) s = softwareInterrupt s (Instr.trap src).length n.toNat s1 := by
      simp only [exec, execTrap, hr]
    exact ⟨continues_of_finish (touched.entered_sameBut n.toNat next hw)
      (run.trans (softwareInterrupt_of_canEnter h)), touched.fr⟩
  · intro s h hw
    exact ⟨continues_of_finish (State.entered_sameBut s 2 (s.pc + 1) hw) (softwareInterrupt_of_canEnter h),
      State.entered_fr s 2 (s.pc + 1)⟩

/-! ### RETI and RETT (45 R333, R335) -/

section Returns

variable {s s1 s2 : State} {v w : Nat} (hv : readMem false s.sp 4 s = .ok v s1)
  (hw : readMem false (s.sp + 4) 4 { s1 with sp := s.sp + 4 } = .ok w s2)

include hv hw

/-- Reading the two words, SP moving between them, touches nothing else. -/
theorem touches_of_pops : State.Touches [] (fun _ => false) true s { s2 with sp := s.sp + 8 } :=
  ((((readMem_touches hv [] (fun _ => false) true).trans (s1.touches_sp (s.sp + 4))).trans
    (readMem_touches hw [] (fun _ => false) true)).trans (s2.touches_sp (s.sp + 8))).mono (by simp) (by simp) (by simp)

/-- A return pops PC and then PS, which it restores unless a reserved bit of it is 1. -/
theorem popReturn_of_reads : popReturn s = (restorePs (BitVec.ofNat 32 w) { s2 with sp := s.sp + 8 }).bind fun _ t =>
    .ok () (t.jumpTo (BitVec.ofNat 32 v)) := by
  have sp1 : s1.sp = s.sp := (readMem_sameCore hv).sp
  have sp2 : s2.sp = s.sp + 4 := (readMem_sameCore hw).sp
  have first : pop s = .ok (BitVec.ofNat 32 v) { s1 with sp := s.sp + 4 } :=
    pop_eq_ok.2 ⟨v, s1, hv, rfl, by rw [sp1]⟩
  have second : pop { s1 with sp := s.sp + 4 } = .ok (BitVec.ofNat 32 w) { s2 with sp := s.sp + 8 } :=
    pop_eq_ok.2 ⟨w, s2, hw, rfl, by rw [sp2, BitVec.add_assoc]; rfl⟩
  rw [popReturn, first, Res.ok_bind, second, Res.ok_bind]

end Returns

/-- Settles O47: RETI and RETT are one return, and differ in what they note after it. -/
theorem returnsFromInterrupt : Obligations.ReturnsFromInterrupt := by
  intro s s1 s2 v w hv hw pc ps t
  have touched := touches_of_pops hv hw
  have popped := popReturn_of_reads hv hw
  refine ⟨?_, touched.fr, fun hl => ?_, fun hl hc => ?_⟩
  · exact { touched with
      status := and_no_bits _ _
      agents := fun e => { touched.agents e with } }
  · have refused : popReturn s = .refused .reservedPsBits := by
      rw [popped, restorePs, Bool.eq_false_iff.2 (mt (legal_iff ps).1 hl)]
      rfl
    constructor
    · rw [exec, execReti, refused, Res.refused_bind, finish_refused]
    · rw [exec, execRett, refused, Res.refused_bind, finish_refused]
  · have restored : popReturn s = .ok () t := by
      rw [popped, restorePs_eq_ok (u := ()).2 ⟨(legal_iff ps).2 hl, rfl⟩]
      rfl
    constructor
    · rw [exec, execReti, restored]
      exact finish_ok hc
    · rw [exec, execRett, restored]
      exact finish_ok hc

end Sys2Proof.Machine
end

section
/-! SUPPORT. Loads of the registers of single ports (O51) and of ports that a mask selects (O52), and the broadcast
engine (O54): 46 R360 to R367; 93 U8, U9, U14; log 23, 39. -/

namespace Sys2Proof.Machine

/-! ### Instructions over two value operands (30 R121) -/

/-- An instruction that reads two values ends as what it does with them, in the state that reading leaves. -/
theorem Values.finish_bind {t u : OpType} {src : Mode t} {des : Mode u} {s s2 : State} {a : BitVec t.bits}
    {b : BitVec u.bits} (h : Values src des s a b s2) (f : BitVec t.bits → BitVec u.bits → State → Res Unit) :
    finish s ((readField s.sp src s).bind fun a s1 => (readField s.sp des s1).bind fun b s2 => f a b s2) =
      finish s (f a b s2) := by
  obtain ⟨s1, read, read2⟩ := h
  rw [read, Res.ok_bind, read2, Res.ok_bind]

/-! ### Ports by number (46 R360, R361) -/

theorem portOfNumber_of_input {n : Byte} {p : PortIx} (h : n.toNat = portBit p) :
    portOfNumber n = some (.input p) := by
  have := p.isLt
  unfold portBit at h
  split at h
  · rename_i last
    obtain rfl : p = 10 := Fin.ext last
    rw [portOfNumber, dif_neg (by omega), if_pos h]
  · rw [portOfNumber, dif_pos (by omega)]
    exact congrArg (some <| Port.input ·) (Fin.ext h)

theorem portOfNumber_of_output {n : Byte} {p : PortIx} (h : n.toNat = 32 + portBit p) :
    portOfNumber n = some (.output p) := by
  have := p.isLt
  unfold portBit at h
  split at h
  · rename_i last
    obtain rfl : p = 10 := Fin.ext last
    rw [portOfNumber, dif_neg (by omega), if_neg (by omega), dif_neg (by omega), if_pos h]
  · rw [portOfNumber, dif_neg (by omega), if_neg (by omega), dif_pos (by omega)]
    exact congrArg (some <| Port.output ·) (Fin.ext (Nat.sub_eq_of_eq_add' h))

theorem portOfNumber_eq_none {n : Byte}
    (h : ¬(n.toNat < 10 ∨ n.toNat = 31 ∨ (32 ≤ n.toNat ∧ n.toNat < 42) ∨ n.toNat = 63)) :
    portOfNumber n = none := by
  rw [portOfNumber, dif_neg (by omega), if_neg (by omega), dif_neg (by omega), if_neg (by omega)]

/-! ### LPTR and LCNT (46 R362 to R364) -/

section SinglePort

variable {src : Mode .word} {des : Mode .byte} {s s2 t : State} {v : Word} {n : Byte} {p : PortIx}

/-- A number of no port is refused (93 U8). -/
theorem exec_lptr_of_none (h : Values src des s v n s2) (hn : portOfNumber n = none) :
    exec (.lptr src des) s = .refused .noSuchPort := by
  rw [exec, execLptr, h.finish_bind, hn]
  rfl

theorem exec_lcnt_of_none (h : Values src des s v n s2) (hn : portOfNumber n = none) :
    exec (.lcnt src des) s = .refused .noSuchPort := by
  rw [exec, execLcnt, h.finish_bind, hn]
  rfl

theorem exec_lptr_of_input (h : Values src des s v n s2) (hn : portOfNumber n = some (.input p)) :
    exec (.lptr src des) s = finish s (if (s2.inPorts.get p).count ≠ 0 then .refused .portBusy else
      .ok () ((s2.setInPort p { s2.inPorts.get p with addr := evenPart v }).advance (Instr.lptr src des).length)) := by
  rw [exec, execLptr, h.finish_bind, hn]

theorem exec_lptr_of_output (h : Values src des s v n s2) (hn : portOfNumber n = some (.output p)) :
    exec (.lptr src des) s = finish s (if (s2.outPorts.get p).count ≠ 0 then .refused .portBusy else
      .ok () ((s2.setOutPort p { s2.outPorts.get p with addr := evenPart v }).advance (Instr.lptr src des).length)) := by
  rw [exec, execLptr, h.finish_bind, hn]

theorem exec_lcnt_of_input (h : Values src des s v n s2) (hn : portOfNumber n = some (.input p)) :
    exec (.lcnt src des) s = finish s (if (s2.inPorts.get p).count ≠ 0 then .refused .portBusy else
      .ok () (((s2.showErrors p false false).setInPort p { s2.inPorts.get p with
        count := evenPart v, parityNoted := false, overrunNoted := false }).advance (Instr.lcnt src des).length)) := by
  rw [exec, execLcnt, h.finish_bind, hn]
  rfl

theorem exec_lcnt_of_output (h : Values src des s v n s2) (hn : portOfNumber n = some (.output p)) :
    exec (.lcnt src des) s = finish s (if (s2.outPorts.get p).count ≠ 0 then .refused .portBusy else
      .ok () ((s2.setOutPort p { s2.outPorts.get p with count := evenPart v }).advance (Instr.lcnt src des).length)) := by
  rw [exec, execLcnt, h.finish_bind, hn]

/-- A load of a port in use is refused (93 U9). -/
theorem finish_of_busy {count : Word} {x : Res Unit} (hc : count ≠ 0) :
    finish s (if count ≠ 0 then .refused .portBusy else x) = .refused .portBusy := by
  rw [if_pos hc, finish_refused]

/-- A load of an idle port goes on. -/
theorem finish_of_idle {count : Word} {len : Nat} (hc : count = 0) (hpc : t.pc = s.pc) (hps : t.ps = s.ps)
    (hsp : crossed s.sp t.sp = false) :
    finish s (if count ≠ 0 then .refused .portBusy else .ok () (t.advance len)) =
      .next { t with pc := s.following len } := by
  rw [if_neg (not_not_intro hc)]
  exact finish_advance hpc (congrArg Ps.rep hps) hsp

end SinglePort

/-- Settles O51: by the port that the number names. -/
theorem pointerAndCountLoads : Obligations.PointerAndCountLoads := by
  intro src des s s2 v n h even ptr cnt
  have touched := h.touches
  refine ⟨fun hn => ?_, touched.sameBut, touched.fr, fun p => ?_⟩
  · have noPort := portOfNumber_eq_none hn
    exact ⟨exec_lptr_of_none h noPort, exec_lcnt_of_none h noPort⟩
  · intro bit
    constructor
    · intro hn q
      have input := portOfNumber_of_input hn
      rw [exec_lptr_of_input h input, exec_lcnt_of_input h input]
      exact ⟨fun busy => ⟨finish_of_busy busy, finish_of_busy busy⟩, fun idle hsp =>
        ⟨finish_of_idle idle touched.pc touched.ps hsp, finish_of_idle idle touched.pc touched.ps hsp⟩⟩
    · intro hn q
      have output := portOfNumber_of_output hn
      rw [exec_lptr_of_output h output, exec_lcnt_of_output h output]
      exact ⟨fun busy => ⟨finish_of_busy busy, finish_of_busy busy⟩, fun idle hsp =>
        ⟨finish_of_idle idle touched.pc touched.ps hsp, finish_of_idle idle touched.pc touched.ps hsp⟩⟩

/-! ### Ports that a mask selects (46 R361) -/

section Selected

variable {s : State} {m : Word}

theorem State.anySelected_iff {f : OutPort → Bool} :
    s.anySelected m f = true ↔ ∃ p, selects m p = true ∧ f (s.outPorts.get p) = true := by
  simp [State.anySelected]

/-- Every selected port is changed, and no other. -/
theorem State.mapSelected_get (s : State) (m : Word) (f : OutPort → OutPort) (p : PortIx) :
    (selects m p = true → (s.mapSelected m f).outPorts.get p = f (s.outPorts.get p)) ∧
      (¬selects m p = true → (s.mapSelected m f).outPorts.get p = s.outPorts.get p) := by
  rw [State.mapSelected_outPorts, Vector.get_eq_getElem, Vector.getElem_ofFn]
  exact ⟨fun hp => if_pos hp, fun hp => if_neg hp⟩

/-- The first address is that of a selected port, if there is one (46 R366). -/
theorem State.firstAddress_of_selected {p : PortIx} (hp : selects m p = true) :
    ∃ q, selects m q = true ∧ s.firstAddress m = (s.outPorts.get q).addr := by
  unfold State.firstAddress
  split
  · rename_i q hq
    exact ⟨q, List.find?_some hq, rfl⟩
  · rename_i missing
    exact absurd hp (List.find?_eq_none.1 missing p (List.mem_finRange p))

/-- Some selected port has not the first address exactly when two of them differ in theirs (46 R366). -/
theorem State.addresses_differ_iff :
    s.anySelected m (fun q => q.addr != s.firstAddress m) = true ↔
      ∃ p q, selects m p = true ∧ selects m q = true ∧ (s.outPorts.get p).addr ≠ (s.outPorts.get q).addr := by
  rw [State.anySelected_iff]
  constructor
  · rintro ⟨p, hp, differs⟩
    obtain ⟨q, hq, first⟩ := State.firstAddress_of_selected (s := s) hp
    exact ⟨p, q, hp, hq, by simpa [first] using differs⟩
  · rintro ⟨p, q, hp, hq, differ⟩
    by_cases hpf : (s.outPorts.get p).addr = s.firstAddress m
    · exact ⟨q, hq, by simpa [← hpf] using differ.symm⟩
    · exact ⟨p, hp, by simpa using hpf⟩

theorem State.inBroadcast_iff : s.inBroadcast m = true ↔ ∃ b, s.broadcast = some b ∧ b &&& m ≠ 0 := by
  unfold State.inBroadcast
  cases s.broadcast <;> simp

end Selected

/-! ### BPTR and BCNT (46 R362, R365 to R367) -/

/-- What 46 R366 forbids to BCNT: a selected port in use and, with a nonzero count, a broadcast in progress or selected
ports whose addresses differ (93 U14; log 23). -/
def State.ForbidsCount (s : State) (m even : Word) : Prop :=
  (∃ p, selects m p = true ∧ (s.outPorts.get p).count ≠ 0) ∨
  (even ≠ 0 ∧ s.broadcast ≠ none) ∨
  (even ≠ 0 ∧ ∃ p q, selects m p = true ∧ selects m q = true ∧ (s.outPorts.get p).addr ≠ (s.outPorts.get q).addr)

section Broadcast

variable {src des : Mode .word} {s s2 : State} {v m : Word}

/-- A bit of no port is refused (93 U8). -/
theorem exec_bptr_of_no_port (h : Values src des s v m s2) (hm : m &&& ~~~portMask ≠ 0) :
    exec (.bptr src des) s = .refused .noSuchPort := by
  rw [exec, execBptr, h.finish_bind, if_pos hm, finish_refused]

theorem exec_bcnt_of_no_port (h : Values src des s v m s2) (hm : m &&& ~~~portMask ≠ 0) :
    exec (.bcnt src des) s = .refused .noSuchPort := by
  rw [exec, execBcnt, h.finish_bind]
  dsimp only
  rw [if_pos hm, finish_refused]

theorem exec_bptr_of_member (h : Values src des s v m s2) (hm : m &&& ~~~portMask = 0)
    (hb : s2.inBroadcast m = true) : exec (.bptr src des) s = .refused .broadcastRule := by
  rw [exec, execBptr, h.finish_bind, if_neg (not_not_intro hm), if_pos hb, finish_refused]

theorem exec_bptr_goes_on (h : Values src des s v m s2) (hm : m &&& ~~~portMask = 0)
    (hb : ¬s2.inBroadcast m = true) (hc : crossed s.sp s2.sp = false) :
    exec (.bptr src des) s = .next { s2.mapSelected m (fun q => { q with addr := evenPart v }) with
      pc := s.following (Instr.bptr src des).length } := by
  have touched := h.touches
  rw [exec, execBptr, h.finish_bind, if_neg (not_not_intro hm), if_neg hb]
  exact finish_advance touched.pc (congrArg Ps.rep touched.ps) hc

/-- The three tests of BCNT are what 46 R366 forbids. -/
theorem State.forbidsCount_iff {s : State} {m even : Word} : s.ForbidsCount m even ↔
    s.anySelected m (fun q => q.count != 0) = true ∨ (even != 0 && s.broadcast.isSome) = true ∨
      (even != 0 && m != 0 && s.anySelected m (fun q => q.addr != s.firstAddress m)) = true := by
  have busy : s.anySelected m (fun q => q.count != 0) = true ↔
      ∃ p, selects m p = true ∧ (s.outPorts.get p).count ≠ 0 := by
    simp [State.anySelected_iff]
  have running : (even != 0 && s.broadcast.isSome) = true ↔ even ≠ 0 ∧ s.broadcast ≠ none := by
    simp [Option.isSome_iff_ne_none]
  have nonempty (p : PortIx) (hp : selects m p = true) : m ≠ 0 := by
    rintro rfl
    simp [selects] at hp
  have differ : (even != 0 && m != 0 && s.anySelected m (fun q => q.addr != s.firstAddress m)) = true ↔ even ≠ 0 ∧
      ∃ p q, selects m p = true ∧ selects m q = true ∧ (s.outPorts.get p).addr ≠ (s.outPorts.get q).addr := by
    rw [Bool.and_eq_true, Bool.and_eq_true, bne_iff_ne, bne_iff_ne, State.addresses_differ_iff, and_assoc]
    exact and_congr_right fun _ => and_iff_right_of_imp fun ⟨p, _, hp, _⟩ => nonempty p hp
  rw [busy, running, differ]
  rfl

theorem exec_bcnt_of_forbidden (h : Values src des s v m s2) (hm : m &&& ~~~portMask = 0)
    (hf : s2.ForbidsCount m (evenPart v)) : exec (.bcnt src des) s = .refused .broadcastRule := by
  have tests := State.forbidsCount_iff.1 hf
  rw [exec, execBcnt, h.finish_bind]
  dsimp only
  rw [if_neg (not_not_intro hm)]
  split
  · exact finish_refused s _
  · rename_i idle
    split
    · exact finish_refused s _
    · rename_i notRunning
      rw [if_pos ((tests.resolve_left idle).resolve_left notRunning), finish_refused]

theorem exec_bcnt_goes_on (h : Values src des s v m s2) (hm : m &&& ~~~portMask = 0)
    (hf : ¬s2.ForbidsCount m (evenPart v)) (hc : crossed s.sp s2.sp = false) :
    exec (.bcnt src des) s = .next { s2.mapSelected m (fun q => { q with count := evenPart v }) with
      broadcast := if evenPart v ≠ 0 ∧ m ≠ 0 then some m else s2.broadcast
      pc := s.following (Instr.bcnt src des).length } := by
  have touched := h.touches
  have starts : (evenPart v != 0 && m != 0) = true ↔ evenPart v ≠ 0 ∧ m ≠ 0 := by simp
  rw [State.forbidsCount_iff, not_or, not_or] at hf
  obtain ⟨idle, notRunning, alike⟩ := hf
  rw [exec, execBcnt, h.finish_bind]
  dsimp only
  rw [if_neg (not_not_intro hm), if_neg idle, if_neg notRunning, if_neg alike]
  simp only [starts]
  exact finish_advance (t := { s2.mapSelected m (fun q => { q with count := evenPart v }) with
    broadcast := if evenPart v ≠ 0 ∧ m ≠ 0 then some m else s2.broadcast }) touched.pc (congrArg Ps.rep touched.ps) hc

end Broadcast

/-- Settles O52: by what the mask selects and what 46 R366 forbids. -/
theorem broadcastLoads : Obligations.BroadcastLoads := by
  intro src des s s2 v m h even ptr cnt selected
  have touched := h.touches
  refine ⟨touched.sameBut, touched.fr, fun hm => ⟨exec_bptr_of_no_port h hm, exec_bcnt_of_no_port h hm⟩,
    fun hm => ⟨?_, ?_, ?_, ?_, ?_, ?_⟩⟩
  · exact fun member => exec_bptr_of_member h hm (State.inBroadcast_iff.2 member)
  · intro apart hc
    have outside : ¬s2.inBroadcast m = true := fun member =>
      have ⟨b, hb, common⟩ := State.inBroadcast_iff.1 member
      common (apart b hb)
    exact ⟨_, exec_bptr_goes_on h hm outside hc, s2.mapSelected_get m _⟩
  · exact fun busy => exec_bcnt_of_forbidden h hm (.inl busy)
  · exact fun nonzero running => exec_bcnt_of_forbidden h hm (.inr (.inl ⟨nonzero, running⟩))
  · exact fun nonzero differ => exec_bcnt_of_forbidden h hm (.inr (.inr ⟨nonzero, differ⟩))
  · intro idle start hc
    have allowed : ¬s2.ForbidsCount m even := by
      rintro (⟨p, hp, busy⟩ | ⟨nonzero, running⟩ | ⟨nonzero, p, q, hp, hq, differ⟩)
      · exact busy (idle p hp)
      · exact running (start.resolve_left nonzero).1
      · exact differ ((start.resolve_left nonzero).2 p q hp hq)
    exact ⟨_, exec_bcnt_goes_on h hm allowed hc, s2.mapSelected_get m _⟩

/-! ### The broadcast engine (46 R366) -/

/-- Selected ports that agree in address and count and have free links all send the halfword at that address; the
broadcast goes on until the common count is 0. -/
theorem stepBroadcast_of_alike {s : State} {m a c : Word} (hb : s.broadcast = some m)
    (nonempty : ∃ p, selects m p = true) (hc : c ≠ 0)
    (alike : ∀ p, selects m p = true → s.outPorts.get p = { addr := a, count := c, link := none }) :
    stepBroadcast s = { s.mapSelected m (·.sent (s.halfAt a)) with
      broadcast := if c = 2 then none else some m } := by
  obtain ⟨p, hp⟩ := nonempty
  have ready : ¬s.anySelected m (fun q => !q.canSend) = true := by
    rw [State.anySelected_iff]
    rintro ⟨q, hq, blocked⟩
    exact hc (by simpa [alike q hq, OutPort.canSend] using blocked)
  have first : s.firstAddress m = a := by
    obtain ⟨q, hq, first⟩ := State.firstAddress_of_selected (s := s) hp
    rw [first, alike q hq]
  have sent (q : PortIx) (hq : selects m q = true) :
      ((s.mapSelected m (·.sent (s.halfAt a))).outPorts.get q).count = c - 2 := by
    rw [(s.mapSelected_get m _ q).1 hq, alike q hq, OutPort.sent]
  have more : (s.mapSelected m (·.sent (s.halfAt a))).anySelected m (fun q => q.count != 0) = true ↔ ¬c = 2 := by
    rw [State.anySelected_iff]
    constructor
    · rintro ⟨q, hq, left⟩ rfl
      exact bne_iff_ne.1 left ((sent q hq).trans (sub_self 2))
    · intro left
      exact ⟨p, hp, bne_iff_ne.2 fun done => left (sub_eq_zero.1 ((sent p hp).symm.trans done))⟩
  simp only [stepBroadcast, hb, ready, first, more, Bool.false_eq_true, if_false, ite_not]

/-- Settles O54: the step is the broadcast engine's, over ports that are alike. -/
theorem broadcastMovesAllPortsTogether : Obligations.BroadcastMovesAllPortsTogether := by
  intro s rest m a c h selected place hs hsch hb nonempty hc hh alike
  have half : s.halfAt a = h := by
    rw [State.halfAt_eq, dmaAddress_eq, hh]
  have moved := stepBroadcast_of_alike (s := { s with schedule := rest }) hb nonempty hc alike
  refine ⟨(s.mapSelected m (·.sent h)).outPorts, ?_, fun p => ⟨fun hp => ?_, (s.mapSelected_get m _ p).2⟩⟩
  · rw [← half]
    exact (step_of_schedule_move hsch).trans (moveTurn_of_ok hs (congrArg (Res.ok ()) moved))
  · rw [(s.mapSelected_get m _ p).1 hp, alike p hp, OutPort.sent]

end Sys2Proof.Machine
end

section
/-! SUPPORT. Taking an interrupt (O55), what keeps it from being entered (O56), Stack Overflow (O57), and the return
that undoes an entry (O48): 60 R401, R402, R404, R406, R407, R416; 45 R335; 93 U4, U17, U18. -/

namespace Sys2Proof.Machine

/-! ### Stack Overflow (60 R416) -/

theorem crossed_iff (before after : Word) :
    crossed before after = true ↔ 2048 ≤ before.toNat ∧ after.toNat < 2048 := by
  simp [crossed]

theorem crossed_eq_false_iff (before after : Word) :
    crossed before after = false ↔ ¬(2048 ≤ before.toNat ∧ after.toNat < 2048) := by
  rw [← crossed_iff, Bool.not_eq_true]

/-- Where the instruction raises an exception too, Stack Overflow follows the entry of that one (60 R402; log 12). -/
theorem finish_exc_of_crossed {s t u : State} {n : Nat} (h : enter n s.pc t = .next u) (hc : crossed s.sp t.sp = true)
    (hu : u.stuck = false) : finish s (.exc n t) = enterOnly 12 s.pc u := by
  simp only [finish, h, hc, hu, Bool.not_false, Bool.and_true, if_true]

theorem finish_exc_of_next {s t u : State} {n : Nat} (h : enter n s.pc t = .next u)
    (hc : crossed s.sp t.sp = false ∨ u.stuck = true) : finish s (.exc n t) = .next u := by
  have quiet : (crossed s.sp t.sp && !u.stuck) = false := by
    rcases hc with hc | hu
    · rw [hc, Bool.false_and]
    · rw [hu, Bool.not_true, Bool.and_false]
  simp only [finish, h, quiet, Bool.false_eq_true, if_false]

/-- Settles O57: `crossed` is the transition, and each part is the check for it after an instruction, after an entry's
own pushes, or after the entry of the instruction's exception. -/
theorem stackOverflowOnTheTransition : Obligations.StackOverflowOnTheTransition := by
  refine ⟨fun s t ht => ⟨fun hc => ?_, fun hc => ?_⟩, fun s n q h hs => ?_,
    fun s t u n h => ⟨fun hc hu => ?_, fun hc => ?_⟩⟩
  · exact checkStack_of_crossed ((crossed_iff _ _).2 hc) ht
  · exact finish_ok ((crossed_eq_false_iff _ _).2 hc)
  · have running : (s.entered n q).stuck = false := (s.entered_stuck n q).trans hs
    rw [enter_of_canEnter h, ← s.entered_sp n q]
    exact ⟨fun hc => checkStack_of_crossed ((crossed_iff _ _).2 hc) running,
      fun hc => checkStack_of_not_crossed ((crossed_eq_false_iff _ _).2 hc)⟩
  · exact finish_exc_of_crossed h ((crossed_iff _ _).2 hc) hu
  · exact finish_exc_of_next h (hc.imp_left (crossed_eq_false_iff _ _).2)

/-! ### The parts of an entry (60 R404) -/

/-- The state after the first push of an entry, that of PS at SP - 4. -/
def State.pushedPs (s : State) : State := { s with sp := s.sp - 4 }.store .other (s.sp - 4).toNat 4 s.ps.toNat

/-- The state after both: the PC value stands below PS. -/
def State.pushedPair (s : State) (q : Word) : State :=
  { s.pushedPs with sp := s.sp - 8 }.store .other (s.sp - 8).toNat 4 q.toNat

theorem State.pushedPs_sp_sub (s : State) : s.pushedPs.sp - 4 = s.sp - 8 := sub_four_four s.sp

section Entry

variable {s : State} {n : Nat} {q : Word}

theorem entrySequence_first_outside (h : memoryBytes < (s.sp - 4).toNat + 4) :
    entrySequence n q s = .exc 11 { s with sp := s.sp - 4 } := by
  rw [entrySequence, push_outside h, Res.exc_bind]

variable (hd : s.during = []) (h1 : (s.sp - 4).toNat + 4 ≤ memoryBytes)

include hd h1

theorem push_ps_inside : push s.ps s = .ok () s.pushedPs := push_inside hd h1

theorem entrySequence_second_outside (h2 : memoryBytes < (s.sp - 8).toNat + 4) :
    entrySequence n q s = .exc 11 { s.pushedPs with sp := s.sp - 8 } := by
  rw [← s.pushedPs_sp_sub] at h2 ⊢
  rw [entrySequence, push_ps_inside hd h1, Res.ok_bind, push_outside h2, Res.exc_bind]

/-- With both pushes inside memory only the NPS of the vector can keep the interrupt from being entered. -/
theorem entrySequence_of_inside (h2 : (s.sp - 8).toNat + 4 ≤ memoryBytes) (hn : n < 256) : entrySequence n q s =
    (loadPs (s.entered n q).ps (s.pushedPair q)).bind fun _ t =>
      .ok () { t.jumpTo (s.entered n q).pc with waiting := false } := by
  have quiet : (s.pushedPair q).during = [] := hd
  have second : push q s.pushedPs = .ok () (s.pushedPair q) := by
    rw [State.pushedPair, ← s.pushedPs_sp_sub]
    exact push_inside hd (s.pushedPs_sp_sub ▸ h2)
  have pc : readMem false (BitVec.ofNat 32 (8 * n)) 4 (s.pushedPair q) = .ok _ _ :=
    readMem_vector hn 0 (.inl rfl) quiet
  rw [entrySequence, push_ps_inside hd h1, Res.ok_bind, second, Res.ok_bind, pc, Res.ok_bind,
    readMem_vector hn 4 (.inr rfl) quiet, Res.ok_bind]
  rfl

end Entry

/-- An Address Error inside an entry is final (60 R407). -/
theorem enterOnly_of_exc {s t : State} {n k : Nat} {q : Word} (hr : s.romActive = false)
    (h : entrySequence n q s = .exc k t) : enterOnly n q s = .next { t with errorFlag := true, stuck := true } :=
  enterOnly_eq_next.2 ⟨hr, .inr ⟨k, t, h, rfl⟩⟩

theorem enterOnly_of_refused {s : State} {n : Nat} {q : Word} {r : Refusal} (hr : s.romActive = false)
    (h : entrySequence n q s = .refused r) : enterOnly n q s = .refused r := by
  simp only [enterOnly, hr, h, Bool.false_eq_true, if_false]

theorem enterOnly_of_romActive {s : State} (hr : s.romActive = true) (n : Nat) (q : Word) :
    enterOnly n q s = .fault .exceptionInShadowRom := by
  simp only [enterOnly, hr, if_true]

/-- A stuck machine knows only the reset pin (60 R407, R445). -/
theorem step_of_stuck {s : State} (hs : s.stuck = true) (h : ∀ rest, s.schedule ≠ .resetPin :: rest) :
    step s = .fault .stuck := by
  unfold step
  split
  case h_1 => exact if_pos hs
  case h_2 => exact if_pos hs
  case h_3 => exact if_pos hs
  case h_4 rest hq => exact absurd hq (h rest)

/-- Settles O56: each part of an entry in turn is the one that does not answer. -/
theorem faultInsideAnEntryIsFinal : Obligations.FaultInsideAnEntryIsFinal := by
  refine ⟨fun s n q hr h => ?_, fun s n q hr hd h1 h2 => ?_, ?_,
    fun s n q hr => enterOnly_of_romActive hr n q, fun s hs h => step_of_stuck hs h⟩
  · exact ⟨_, enterOnly_of_exc hr (entrySequence_first_outside h), rfl, rfl, rfl⟩
  · exact ⟨_, enterOnly_of_exc hr (entrySequence_second_outside hd h1 h2), rfl, rfl, rfl⟩
  · intro s n q hr hd hn h1 h2 nps
    have loads := entrySequence_of_inside (q := q) hd h1 h2 hn
    refine ⟨fun hl => enterOnly_of_refused hr ?_, fun hl hp => enterOnly_of_refused hr ?_⟩
    · rw [loads, loadPs_of_reserved _ (Bool.eq_false_iff.2 (mt (legal_iff nps).1 hl)), Res.refused_bind]
    · rw [loads, loadPs_of_repeat _ ((legal_iff nps).2 hl) hp, Res.refused_bind]

/-! ### What an entry pushes and loads (60 R401, R404) -/

/-- The PS that an entry has pushed, low-order byte first: the push of the PC value is below it. -/
theorem State.get_entered_pushed_ps (s : State) (n : Nat) (q : Word) {j : Nat} (h : 8 ≤ s.sp.toNat) (hj : j < 4) :
    (s.entered n q).mem.get (s.sp.toNat - 4 + j) = s.ps.extractLsb' (8 * j) 8 := by
  have first : (s.sp - 4).toNat = s.sp.toNat - 4 := by bv_omega
  have second : (s.sp - 8).toNat = s.sp.toNat - 8 := by bv_omega
  rw [State.entered_mem, first, second, Memory.get_write_of_not_mem _ _ _ _ _ (by omega),
    Memory.get_write_eq, if_pos ⟨by omega, by omega⟩, Nat.add_sub_cancel_left, ofNat_div_eq_extractLsb']

/-- Settles O55: the entry is `State.entered`, whose vector lies below the bytes that it pushes. -/
theorem entryPushesAndLoadsTheVector : Obligations.EntryPushesAndLoadsTheVector := by
  intro s n q h hp hsp
  have number : n < 256 := h.2.2.1
  have first : (s.sp - 4).toNat = s.sp.toNat - 4 := by bv_omega
  have second : (s.sp - 8).toNat = s.sp.toNat - 8 := by bv_omega
  have vector : 8 * n + 8 ≤ (s.sp - 8).toNat ∧ (s.sp - 8).toNat ≤ (s.sp - 4).toNat := by omega
  refine ⟨_, enterOnly_of_canEnter h, s.entered_sp n q, s.entered_regs n q, s.entered_fr n q, s.entered_waiting n q,
    fun j hj => s.get_entered_pushed_ps n q (by omega) hj, fun j hj => s.get_entered_pushed n q (by omega) hj,
    fun x hx => s.get_entered n q ?_, fun j hj => ?_, fun j hj => ?_⟩
  · simp only [pushedEight, Bool.or_eq_false_iff, Bool.and_eq_false_iff, decide_eq_false_iff_not]
    omega
  · rw [s.entered_pc n q hp vector.1 vector.2, Memory.extractLsb'_read_word _ _ hj]
  · rw [s.entered_ps n q hp vector.1 vector.2, Memory.extractLsb'_read_word _ _ hj]

/-! ### The pushed words read back (70 R481; 45 R335) -/

/-- The latest store to a byte is the same after a store to others. -/
theorem find?_storesAfter (k : Storer) {b m x : Nat} (ws : List Stored) (hx : x < b ∨ b + m ≤ x) :
    (storesAfter k b m ws).find? (·.covers x) = ws.find? (·.covers x) := by
  have kept : (ws.filter fun h => !h.within b m).find? (·.covers x) = ws.find? (·.covers x) := by
    rw [List.find?_filter]
    refine List.find?_congr fun h _ => ?_
    by_cases covered : h.covers x = true
    · have apart : h.within b m = false := by
        simp only [Stored.covers, Stored.within, Bool.and_eq_true, Bool.and_eq_false_iff, decide_eq_true_eq,
          decide_eq_false_iff_not] at covered ⊢
        omega
      simp [covered, apart]
    · simp [covered]
  have other : ({ addr := b, len := m, kind := k } : Stored).covers x = false := by
    simp only [Stored.covers, Bool.and_eq_false_iff, decide_eq_false_iff_not]
    omega
  unfold storesAfter
  dsimp only
  split
  · exact kept
  · rw [List.find?_cons_of_neg (by simp [other]), kept]

/-- An integer reads as before after a store to other bytes. -/
theorem State.load_store_of_disjoint (s : State) (k : Storer) {a n b m : Nat} (v : Nat) (h : a + n ≤ b ∨ b + m ≤ a) :
    (s.store k b m v).load false a n = s.load false a n := by
  rw [State.load_eq, State.load_eq]
  refine littleEndian_congr fun x h1 h2 => ?_
  have outside : x < b ∨ b + m ≤ x := by omega
  rw [State.byteSeen, State.byteSeen, State.store_mem, Memory.get_write_of_not_mem _ _ _ _ _ outside, State.stale,
    State.stale, State.store_written, find?_storesAfter k _ outside, State.store_freeCount]
  rfl

/-- A word stored whole is read back. -/
theorem ofNat_toNat_mod_word (v : Word) : BitVec.ofNat 32 (v.toNat % 256 ^ 4) = v := by
  have range : v.toNat < 256 ^ 4 := v.isLt
  rw [Nat.mod_eq_of_lt range, BitVec.ofNat_toNat, BitVec.setWidth_eq]

theorem State.load_entered_pc (s : State) (n : Nat) (q : Word) :
    BitVec.ofNat 32 ((s.entered n q).load false (s.sp - 8).toNat 4) = q :=
  (congrArg (BitVec.ofNat 32) (State.load_store _ (k := .other) nofun false _ 4 q.toNat)).trans (ofNat_toNat_mod_word q)

theorem State.load_entered_ps (s : State) (n : Nat) (q : Word) (h : 8 ≤ s.sp.toNat) :
    BitVec.ofNat 32 ((s.entered n q).load false (s.sp - 4).toNat 4) = s.ps := by
  have below : (s.sp - 8).toNat + 4 ≤ (s.sp - 4).toNat := by bv_omega
  have past : (s.entered n q).load false (s.sp - 4).toNat 4 = s.ps.toNat % 256 ^ 4 :=
    (State.load_store_of_disjoint _ .other q.toNat (.inr below)).trans
      (State.load_store _ (k := .other) nofun false _ 4 s.ps.toNat)
  rw [past, ofNat_toNat_mod_word]

/-- Settles O48: the two words that RETI pops are those that the entry has pushed. -/
theorem returnUndoesEntry : Obligations.ReturnUndoesEntry := by
  rintro s t n q ⟨-, hd, -, h1, h2, -, -⟩ hl - hsp rfl
  set t := s.entered n q
  have quiet : t.during = [] := hd
  have sp : t.sp = s.sp - 8 := s.entered_sp n q
  have sp4 : t.sp + 4 = s.sp - 4 := by rw [sp]; bv_omega
  have sp8 : t.sp + 8 = s.sp := by rw [sp]; bv_omega
  have pops : readMem false t.sp 4 t = .ok (t.load false t.sp.toNat 4) t :=
    (readMem_eq_ok quiet).2 ⟨sp ▸ h2, rfl, rfl⟩
  have pops2 : readMem false (t.sp + 4) 4 { t with sp := t.sp + 4 } =
      .ok (t.load false (t.sp + 4).toNat 4) { t with sp := t.sp + 4 } :=
    (readMem_eq_ok (s := { t with sp := t.sp + 4 }) quiet).2 ⟨sp4 ▸ h1, rfl, rfl⟩
  have pc : BitVec.ofNat 32 (t.load false t.sp.toNat 4) = q := by rw [sp]; exact s.load_entered_pc n q
  have ps : BitVec.ofNat 32 (t.load false (t.sp + 4).toNat 4) = s.ps := by rw [sp4]; exact s.load_entered_ps n q hsp
  have within : crossed t.sp (t.sp + 8) = false := by
    rw [sp8, sp, crossed_eq_false_iff]
    bv_omega
  obtain ⟨-, -, -, returns⟩ := returnsFromInterrupt t t _ _ _ pops pops2
  rw [pc, ps] at returns
  exact ⟨_, (returns ((legal_iff s.ps).1 hl) within).1, rfl, rfl, sp8, s.entered_regs n q⟩

end Sys2Proof.Machine
end

section
/-! SUPPORT. The interrupts of instruction boundaries (O58): which one is taken, and that the step enters it: 60 R402,
R403, R405, R409, R419 to R425; 46 R380, R381; log 11, 31, 32. -/

namespace Sys2Proof.Machine

/-! ### The interrupt of the smallest rank (60 R402; log 11) -/

/-- n is taken before k: it has the smaller rank, or the earlier place at equal ranks. -/
def TakenBefore (rank place : Nat → Nat) (n k : Nat) : Prop :=
  rank n < rank k ∨ (rank n = rank k ∧ place n < place k)

section LeastRank

variable {rank place : Nat → Nat} {n k m : Nat}

theorem TakenBefore.trans (h1 : TakenBefore rank place n k) (h2 : TakenBefore rank place k m) :
    TakenBefore rank place n m := by
  unfold TakenBefore at *
  omega

theorem TakenBefore.asymm (h : TakenBefore rank place n k) : ¬TakenBefore rank place k n := by
  unfold TakenBefore at *
  omega

/-- Of the first two numbers one drops out, the second at equal ranks. -/
theorem leastRank_cons_cons (rank : Nat → Nat) (n k : Nat) (ns : List Nat) :
    leastRank rank (n :: k :: ns) = leastRank rank ((if rank k < rank n then k else n) :: ns) := rfl

/-- Of numbers in the order of their places, one is found that is taken before all others. -/
theorem exists_leastRank (ns : List Nat) (h : (n :: ns).Pairwise (place · < place ·)) :
    ∃ m ∈ n :: ns, leastRank rank (n :: ns) = some m ∧ ∀ k ∈ n :: ns, k ≠ m → TakenBefore rank place m k := by
  induction ns generalizing n with
  | nil => exact ⟨n, List.mem_singleton_self n, rfl, fun k hk hne => absurd (List.mem_singleton.1 hk) hne⟩
  | cons k ns ih =>
    obtain ⟨first, second⟩ := List.pairwise_cons.1 h
    rw [leastRank_cons_cons]
    split
    · rename_i less
      obtain ⟨m, hm, found, least⟩ := ih second
      have dropped : TakenBefore rank place k n := .inl less
      refine ⟨m, List.mem_cons_of_mem n hm, found, List.forall_mem_cons.2 ⟨fun _ => ?_, least⟩⟩
      by_cases e : k = m
      · exact e ▸ dropped
      · exact (least k List.mem_cons_self e).trans dropped
    · rename_i notLess
      have ordered : (n :: ns).Pairwise (place · < place ·) :=
        List.pairwise_cons.2 ⟨fun j hj => first j (List.mem_cons_of_mem k hj), (List.pairwise_cons.1 second).2⟩
      obtain ⟨m, hm, found, least⟩ := ih ordered
      have earlier : place n < place k := first k List.mem_cons_self
      have dropped : TakenBefore rank place n k := by
        unfold TakenBefore
        omega
      obtain ⟨leastFirst, leastRest⟩ := List.forall_mem_cons.1 least
      refine ⟨m, ?_, found, List.forall_mem_cons.2 ⟨leastFirst, List.forall_mem_cons.2 ⟨fun _ => ?_, leastRest⟩⟩⟩
      · exact List.cons_subset_cons n (List.subset_cons_self k ns) hm
      · by_cases e : n = m
        · exact e ▸ dropped
        · exact (leastFirst e).trans dropped

theorem leastRank_eq_some_iff {ns : List Nat} (h : ns.Pairwise (place · < place ·)) :
    leastRank rank ns = some n ↔ n ∈ ns ∧ ∀ k ∈ ns, k ≠ n → TakenBefore rank place n k := by
  cases ns with
  | nil => simp [leastRank]
  | cons a ns =>
    obtain ⟨m, hm, found, least⟩ := exists_leastRank (rank := rank) ns h
    rw [found, Option.some.injEq]
    refine ⟨fun e => e ▸ ⟨hm, least⟩, fun ⟨hn, first⟩ => ?_⟩
    by_contra apart
    exact (first m hm apart).asymm (least n hn (Ne.symm apart))

end LeastRank

/-! ### The interrupts of a boundary and their conditions (60 R402, R420 to R425; 46 R380, R381) -/

/-- The place of an interrupt in the order of 60 R402 steps 4 to 6: 15 first, then by number. -/
def boundaryPlace (n : Nat) : Nat := if n = 15 then 0 else n

theorem boundaryInterrupts_pairwise : boundaryInterrupts.Pairwise (boundaryPlace · < boundaryPlace ·) := by decide

theorem boundaryInterrupts_eq : boundaryInterrupts = [15, 1, 13, 14] ++ (List.finRange 11).map (32 + portBit ·) ++
    (List.finRange 11).map (64 + portBit ·) ++ (List.finRange 11).map (96 + portBit ·) := by decide

/-- They are 15, 1, 13, 14 and three for each port. -/
theorem mem_boundaryInterrupts (n : Nat) : n ∈ boundaryInterrupts ↔ n = 15 ∨ n = 1 ∨ n = 13 ∨ n = 14 ∨
    (∃ p, n = 32 + portBit p) ∨ (∃ p, n = 64 + portBit p) ∨ ∃ p, n = 96 + portBit p := by
  rw [boundaryInterrupts_eq]
  simp only [List.mem_append, List.mem_map, List.mem_finRange, true_and, List.mem_cons, List.not_mem_nil, or_false,
    or_assoc, eq_comm]

section Deliverable

variable (s : State) (p : PortIx)

theorem deliverable_output : deliverable s (32 + portBit p) = outputInterrupt s p := by
  have bit := portBit_lt p
  have number : portOfNumber (BitVec.ofNat 8 (32 + portBit p)) = some (.output p) :=
    portOfNumber_of_output (by rw [BitVec.toNat_ofNat]; omega)
  rw [deliverable, if_neg (by omega), if_neg (by omega), if_neg (by omega), if_neg (by omega), if_pos (by omega),
    number]

/-- The input interrupts of a port have the numbers 64 + 32 e + its bit, e being 1 for an error. -/
theorem deliverable_input {n : Nat} (hn : n = 64 + portBit p ∨ n = 96 + portBit p) :
    deliverable s n = inputInterrupt s (decide (96 ≤ n)) p := by
  have bit := portBit_lt p
  have number : portOfNumber (BitVec.ofNat 8 (n % 32)) = some (.input p) :=
    portOfNumber_of_input (by rw [BitVec.toNat_ofNat]; omega)
  rw [deliverable, if_neg (by omega), if_neg (by omega), if_neg (by omega), if_neg (by omega), if_neg (by omega),
    number]

theorem deliverable_inputReady : deliverable s (64 + portBit p) = inputInterrupt s false p := by
  have bit := portBit_lt p
  rw [deliverable_input s p (.inl rfl), decide_eq_false (by omega)]

theorem deliverable_inputError : deliverable s (96 + portBit p) = inputInterrupt s true p := by
  rw [deliverable_input s p (.inr rfl), decide_eq_true (by omega)]

end Deliverable

/-- An interrupt of the boundaries is deliverable when its condition holds and its enables are all 1. -/
theorem mem_boundaryInterrupts_and_deliverable (s : State) (n : Nat) : n ∈ boundaryInterrupts ∧ deliverable s n = true ↔
    (n = 15 ∧ s.uePending = true) ∨
    (n = 1 ∧ s.traceDue = true ∧ Ps.t s.ps = true ∧ Ps.ie s.ps = true) ∨
    (n = 13 ∧ s.tr = 0 ∧ Ps.to s.ps = true ∧ Ps.ie s.ps = true) ∨
    (n = 14 ∧ s.cePending = true ∧ Ps.ce s.ps = true ∧ Ps.ie s.ps = true) ∨
    (∃ p, n = 32 + portBit p ∧ outputInterrupt s p = true) ∨
    (∃ p, n = 64 + portBit p ∧ inputInterrupt s false p = true) ∨
    (∃ p, n = 96 + portBit p ∧ inputInterrupt s true p = true) := by
  rw [mem_boundaryInterrupts]
  simp only [or_and_right, ← exists_and_right]
  refine or_congr ?_ (or_congr ?_ (or_congr ?_ (or_congr ?_ (or_congr ?_ (or_congr ?_ ?_)))))
  · exact and_congr_right fun h => by rw [h]; rfl
  · exact and_congr_right fun h => by rw [h]; simp [deliverable, and_assoc]
  · exact and_congr_right fun h => by rw [h]; simp [deliverable, and_assoc]
  · exact and_congr_right fun h => by rw [h]; simp [deliverable, and_assoc]
  · exact exists_congr fun p => and_congr_right fun h => by rw [h, deliverable_output]
  · exact exists_congr fun p => and_congr_right fun h => by rw [h, deliverable_inputReady]
  · exact exists_congr fun p => and_congr_right fun h => by rw [h, deliverable_inputError]

theorem outputInterrupt_iff (s : State) (p : PortIx) : outputInterrupt s p = true ↔ (s.outPorts.get p).count = 0 ∧
    s.oe.getLsbD (portBit p) = true ∧ Ps.io s.ps = true ∧ Ps.ie s.ps = true := by
  simp [outputInterrupt, and_assoc]

theorem inputInterrupt_iff (s : State) (error : Bool) (p : PortIx) : inputInterrupt s error p = true ↔
    (s.inPorts.get p).count = 0 ∧ inputError s p = error ∧ s.ie.getLsbD (portBit p) = true ∧ Ps.ii s.ps = true ∧
      Ps.ie s.ps = true := by
  simp [inputInterrupt, and_assoc]

/-! ### The interrupt that is taken (60 R402 steps 3 to 6) -/

theorem State.nextInterrupt_of_barred {s : State} (h : s.romActive = true ∨ s.inhibit = true) :
    s.nextInterrupt = none := by
  have barred : (s.romActive || s.inhibit) = true := by simpa using h
  rw [State.nextInterrupt, State.candidates, if_pos barred]
  rfl

theorem State.nextInterrupt_eq_some_iff {s : State} (hr : s.romActive = false) (hi : s.inhibit = false) (n : Nat) :
    s.nextInterrupt = some n ↔ (n ∈ boundaryInterrupts ∧ deliverable s n = true) ∧
      ∀ k, k ≠ n → k ∈ boundaryInterrupts ∧ deliverable s k = true →
        TakenBefore Config.interruptPriority boundaryPlace n k := by
  have candidates : s.candidates = boundaryInterrupts.filter (deliverable s) := by
    rw [State.candidates, hr, hi]
    rfl
  rw [State.nextInterrupt, candidates, leastRank_eq_some_iff (boundaryInterrupts_pairwise.filter _), List.mem_filter]
  exact and_congr_right fun _ => forall_congr' fun k => by rw [List.mem_filter]; exact imp.swap

/-- A step of the processor with clean accesses that takes an interrupt is its entry, and no more. -/
theorem step_of_interrupt {s : State} {n : Nat} (hsch : s.schedule = []) (hs : s.stuck = false)
    (hn : s.nextInterrupt = some n) (h : s.canEnter n s.pc) (hc : crossed s.sp (s.sp - 8) = false) :
    step s = .next { s.entered n s.pc with
      cePending := s.cePending && n != 14
      uePending := s.uePending && n != 15
      ueMarker := s.ueMarker || n == 15 } := by
  have quiet : ({ s with during := [] } : State) = s := by
    rw [← h.2.1]
  rw [step_of_schedule_nil hsch, quiet, processorTurn_of_canEnter hs hn h hc]
  simp only [correctedIn, Bool.or_false]
  rfl

/-- Settles O58: what is raised are the deliverable interrupts of the boundary, of which the first by rank and place is
taken. (The model's list of these interrupts has the obligation's own name.) -/
theorem boundaryInterruptsAreTaken : Obligations.BoundaryInterrupts := by
  refine ⟨?_, fun s n hsch hs hn h hc => step_of_interrupt hsch hs hn h hc⟩
  intro s bit error ie raised rank place
  have raised_iff (n : Nat) : n ∈ boundaryInterrupts ∧ deliverable s n = true ↔ raised n := by
    rw [mem_boundaryInterrupts_and_deliverable]
    simp only [outputInterrupt_iff, inputInterrupt_iff]
    rfl
  refine ⟨State.nextInterrupt_of_barred, fun hr hi n => ?_⟩
  rw [State.nextInterrupt_eq_some_iff hr hi, raised_iff]
  refine and_congr_right fun _ => forall_congr' fun k => ?_
  rw [raised_iff]
  rfl

end Sys2Proof.Machine
end

section
/-! SUPPORT. The step that executes the instruction at pc (O4): 60 R402; 30 R116; 20 R71, R76; 93 U20; log 1, 2, 3, 15,
32, 39. -/

namespace Sys2Proof.Machine

/-! ### Clean accesses (20 R70) -/

section Clean

variable {eccs : List Ecc} (h : ∀ e ∈ eccs, e = .clean)

include h

theorem uncorrectableIn_of_clean : uncorrectableIn eccs = false :=
  Bool.eq_false_iff.2 fun e => nomatch h _ ((uncorrectableIn_iff eccs).1 e)

theorem correctedIn_of_clean : correctedIn eccs = false := by
  refine Bool.eq_false_iff.2 fun e => ?_
  obtain ⟨before, after, rfl, -⟩ := (correctedIn_iff eccs).1 e
  exact nomatch h .corrected (by simp)

end Clean

/-- With clean accesses nothing is noted before the instruction but that it runs. -/
theorem State.prepared_false (s : State) : s.prepared false =
    { s with inhibit := false, traceDue := true, freeCount := s.freeCount + 1 } := by
  have noted : (s.cePending || (false && !s.romActive)) = s.cePending := by rw [Bool.false_and, Bool.or_false]
  rw [State.prepared, noted]

theorem processorTurn_of_clean {s : State} {eccs : List Ecc} (h : ∀ e ∈ eccs, e = .clean) (hs : s.stuck = false)
    (hw : s.waiting = false) (hn : s.nextInterrupt = none) : processorTurn eccs s =
      runAtPc { s with inhibit := false, traceDue := true, freeCount := s.freeCount + 1 } := by
  rw [processorTurn_of_runs hs hw hn (uncorrectableIn_of_clean h), correctedIn_of_clean h, State.prepared_false]

/-- The turn of the processor with clean accesses, as the first choice of the schedule or with no choice left. -/
theorem step_of_clean {s : State} {sched : List Event} {during : List (List Visit)}
    (h : s.schedule = [] ∧ sched = [] ∧ during = [] ∨
      ∃ eccs, (∀ e ∈ eccs, e = .clean) ∧ s.schedule = .processor eccs during :: sched)
    (hs : s.stuck = false) (hw : s.waiting = false) (hn : s.nextInterrupt = none) : step s = runAtPc { s with
      schedule := sched, during := during, inhibit := false, traceDue := true, freeCount := s.freeCount + 1 } := by
  rcases h with ⟨hsch, rfl, rfl⟩ | ⟨eccs, clean, hsch⟩
  · rw [step_of_schedule_nil hsch, ← hsch]
    exact processorTurn_of_clean (s := { s with during := [] }) (List.forall_mem_nil _) hs hw hn
  · rw [step_of_schedule_processor hsch]
    exact processorTurn_of_clean (s := { s with schedule := sched, during := during }) clean hs hw hn

/-! ### The instruction that is fetched (30 R116, 20 R76) -/

/-- One of n bytes at pc has been stored to, where pc is in memory (93 U20). -/
theorem State.staleCode_iff (s : State) (n : Nat) : s.staleCode n = true ↔
    s.romActive = false ∧ ∃ r ∈ s.dirty, r.1 < s.pc.toNat + n ∧ s.pc.toNat < r.1 + r.2 := by
  simp [State.staleCode, State.storedSince]

section Fetched

variable {i : Instr} {s u : State}

theorem runAtPc_of_decode {rest : List Byte} (hi : decode s.fetchBytes = .ok (i, rest)) :
    runAtPc s = runFetched i s := by
  rw [runAtPc, hi]

theorem runFetched_of_stale (hs : s.staleCode i.length = true) : runFetched i s = .refused .staleInstructionBytes :=
  if_pos hs

theorem runFetched_of_refused {r : Refusal} (hs : s.staleCode i.length = false) (hf : fetchOpcode s = .refused r) :
    runFetched i s = .refused r := by
  simp only [runFetched, hs, hf, Bool.false_eq_true, if_false]

theorem runFetched_of_fetched (hs : s.staleCode i.length = false) (hf : fetchOpcode s = .ok () u) :
    runFetched i s = begin i u := by
  simp only [runFetched, hs, hf, Bool.false_eq_true, if_false]

/-- Outside a REPEAT, and for RES and ESC, there is no pre-test (30 R116 step 2). -/
theorem begin_of_direct (h : Ps.rep s.ps = 0 ∨ isUnimplemented i = true) : begin i s = exec i s := by
  rcases h with h | h <;> simp [begin, h]

theorem begin_of_repeat (hr : Ps.rep s.ps ≠ 0) (hi : isUnimplemented i = false) : begin i s = runRepeated i s :=
  if_pos (by simpa [hi] using hr)

end Fetched

/-- Settles O4: the turn runs what is decoded at pc, in the state that its beginning leaves. -/
theorem stepRunsTheDecodedInstruction : Obligations.StepRunsTheDecodedInstruction := by
  intro s sched during i rest hsch hs hw hn hi stale t
  have run : step s = runFetched i t := (step_of_clean hsch hs hw hn).trans (runAtPc_of_decode (s := t) hi)
  have stale_iff : t.staleCode i.length = true ↔ stale := t.staleCode_iff i.length
  have fresh (h : ¬stale) : t.staleCode i.length = false := Bool.eq_false_iff.2 (mt stale_iff.1 h)
  refine ⟨fun h => run.trans (runFetched_of_stale (stale_iff.2 h)), fetchAccess_of_quiet (s := t) _ _,
    fun h r hf => run.trans (runFetched_of_refused (fresh h) hf), fun h u hf => ?_⟩
  have ps : u.ps = s.ps := (fetchAccess_eq_ok hf).1.ps
  rw [run, runFetched_of_fetched (fresh h) hf, ← ps]
  exact ⟨begin_of_direct, begin_of_repeat⟩

end Sys2Proof.Machine
end
